-- ==== Sys2Proof/Word.lean ====
section
/-! DEFINITION. The plain data every other file is written in: raw 5-bit fields, letters, tables,
rotor slots and one value per slot. Follows 00_scope.md R7, R9, R11 and 10_state.md R13, R18. -/

namespace Sys2Proof

/-- A raw 5-bit field or table entry: 0..31, where only 0..25 are symbols (R7, R11). -/
abbrev Field5 := BitVec 5

/-- The 16-bit command word CW (R44). -/
abbrev CommandWord := BitVec 16

/-- The 130-bit table payload TBL (R31). -/
abbrev Payload := BitVec 130

/-- A legal symbol, an integer in 0..25 with A = 0 (R11). Addition and subtraction of letters are
exactly the spec's arithmetic mod 26 (R9). -/
abbrev Letter := Fin 26

/-- A table of 26 legal symbols: `FWD[s]`, `BWD[s]`, `REF` or `PB` (R13). -/
abbrev Table := Vector Letter 26

/-- A table of 26 unchecked 5-bit entries, as it stands in the payload (R31). -/
abbrev RawTable := Vector Field5 26

/-- The identity table, entry i = i (R63, R114). -/
def Table.identity : Table := Vector.ofFn fun i => i

/-- A rotor slot: r1 is the slow slot next to the reflector, r3 the fast slot next to the
plugboard (R18). -/
inductive Slot where
  | r1
  | r2
  | r3
  deriving DecidableEq, Repr, Inhabited

/-- One value for each of the three slots. -/
structure PerSlot (α : Type) where
  r1 : α
  r2 : α
  r3 : α
  deriving DecidableEq, Repr, Inhabited

/-- The value of slot `k`. -/
def PerSlot.get {α : Type} (p : PerSlot α) : Slot → α
  | .r1 => p.r1
  | .r2 => p.r2
  | .r3 => p.r3

/-- The same values with slot `k`'s replaced. -/
def PerSlot.set {α : Type} (p : PerSlot α) (k : Slot) (a : α) : PerSlot α :=
  match k with
  | .r1 => { p with r1 := a }
  | .r2 => { p with r2 := a }
  | .r3 => { p with r3 := a }

/-- The same value in every slot. -/
def PerSlot.same {α : Type} (a : α) : PerSlot α := ⟨a, a, a⟩

/-- A function applied in every slot. -/
def PerSlot.map {α β : Type} (f : α → β) (p : PerSlot α) : PerSlot β :=
  ⟨f p.r1, f p.r2, f p.r3⟩

/-- The three offsets `OFF[1..3]` (R15). -/
abbrev Offsets := PerSlot Letter

end Sys2Proof
end

