-- ==== Sys2Proof/Config.lean ====
section
/-! DEFINITION. The two parameters the spec leaves open and no source settles (00_scope.md R8).
Both are uninterpreted: they have no body, so a claim about them holds for every value. The third
parameter, LATENCY, has no functional effect (70_reset_and_hazards.md R124) and is not represented. -/

namespace Sys2Proof

/-- The type of `DS_STEP_RULE` (R78): offsets, turnovers, double-step enables and the slot being
stepped give the next offsets. Its results are offsets, so 0..25 (R13). -/
abbrev DsStepRule := Offsets → PerSlot Letter → PerSlot Bool → Slot → Offsets

/-- `DS_STEP_RULE` (R78): the stepping function while any `DS_EN` bit is 1. A FREE VALUE, log
entry 3. -/
opaque Config.dsStepRule : DsStepRule

/-- `REF_ROM_2` (R35): the content of reflector ROM entry 2. It is an unchecked table, since a
supplied table must still pass LDREF's checks (R61). A FREE VALUE, log entry 4. -/
opaque Config.refRom2 : RawTable

end Sys2Proof
end

