-- ==== Sys2Proof/Machine/Params.lean ====
section
/-! DEFINITION. Which of the two open parameters the model is given (00_scope.md R8). -/

namespace Sys2Proof.Machine

/-- Whether the model is given `DS_STEP_RULE` and `REF_ROM_2`. R8 has the model take them as
arguments; where one is not given, the commands that need it are refused (R110). -/
structure Given where
  dsStepRule : Bool
  refRom2 : Bool
  deriving DecidableEq, Repr

/-- The model is given both parameters, as the uninterpreted constants of Config.lean, so that every
command has its effect (log entries 3 and 4). DESIGN CHOICE. -/
def givenAtReset : Given := ⟨true, true⟩

end Sys2Proof.Machine
end

