-- ==== Sys2Proof/Syntax.lean ====
section
/-! DEFINITION. The twelve commands of spec/opcode_table.json as one inductive, with their operands
as 30_encoding.md R47 and R51 give them. -/

namespace Sys2Proof

/-- A `src` operand (R51): one of the three ROM entries, or the payload TBL that travels beside the
command word (R31). -/
inductive Source where
  | rom (k : Fin 3)
  | payload (tbl : Payload)
  deriving DecidableEq, Repr

/-- A PROBE `stage` operand (R95). -/
inductive Stage where
  | pb
  | flow
  | rflow
  | ref
  | fwd
  | bwd
  deriving DecidableEq, Repr

/-- A GETCFG `item` operand (R22). -/
inductive Item where
  | turn
  | ds
  | valid
  deriving DecidableEq, Repr

/-- The commands (R46). A symbol operand is the raw 5-bit field, because 26..31 decode and fail only
at execution (R49). PROBE and GETCFG name a slot or none, according to the stage or the item. -/
inductive Instr where
  | proc (x : Field5)
  | step (k : Slot)
  | setoff (k : Slot) (v : Field5)
  | getoff (k : Slot)
  | setall (v : Field5)
  | ldrot (k : Slot) (src : Source) (t : Field5)
  | ldref (src : Source)
  | plclr
  | plswp (a b : Field5)
  | setds (k : Slot) (en : Bool)
  | probe (stage : Stage) (k : Option Slot) (x : Field5)
  | getcfg (item : Item) (k : Option Slot)
  deriving DecidableEq, Repr

end Sys2Proof
end

