-- ==== Sys2Proof/Machine/State.lean ====
section
/-! DEFINITION. The state of the engine (10_state.md R13), with the command port it is driven
through, as plain data; the outcomes a step can end in; the state after reset
(70_reset_and_hazards.md R114). -/

namespace Sys2Proof.Machine

/-- The status of a response (R98). Code 7 is never produced, so it is no constructor. -/
inductive Status where
  | ok
  | invalidWiring
  | invalidReflector
  | duplicateLetter
  | invalidSymbol
  | notConfigured
  | illegalCmd
  deriving DecidableEq, Repr

/-- A response: STATUS and the 5-bit RESULT (R45). Its 8-bit word is `Response.word`. -/
structure Response where
  status : Status
  result : Field5
  deriving DecidableEq, Repr

/-- What the host can do to the engine (R10, R125): present a command word with its payload, or
assert reset. -/
inductive HostInput where
  | command (cw : CommandWord) (tbl : Payload)
  | reset
  deriving DecidableEq, Repr

/-- What a successful LDROT leaves in a slot: `FWD[s]`, `BWD[s]` and `TURN[s]` (R19, R23). -/
structure Rotor where
  fwd : Table
  bwd : Table
  turn : Letter
  deriving DecidableEq, Repr

/-- The engine's state (R13) and its command port. A slot's `FWD`, `BWD` and `TURN` hold no value
until LDROT has loaded the slot, and `ROT_VALID[s]` says whether it has (R21, R114): both are the
one field `rotor`, and in the same way `REF` and `REF_VALID` are `ref` (log entry 1). -/
structure State where
  /-- `OFF[1..3]` (R15). -/
  off : Offsets
  /-- `DS_EN[1..3]` (R20). -/
  dsEn : PerSlot Bool
  /-- `FWD[s]`, `BWD[s]`, `TURN[s]`, present exactly when `ROT_VALID[s]` is 1 (R19, R21, R23). -/
  rotor : PerSlot (Option Rotor)
  /-- `REF`, present exactly when `REF_VALID` is 1 (R21, R25). -/
  ref : Option Table
  /-- `PB` (R26). -/
  pb : Table
  /-- The model's own: which open parameters it is given (R8; log entries 3 and 4). -/
  given : Given
  /-- The model's own: the host interactions still to be taken, in order (R41, R126; log entry 2). -/
  inbox : List HostInput
  /-- The model's own: the responses delivered, oldest first (R126; log entry 2). -/
  responses : List Response
  deriving DecidableEq, Repr

/-- No step of this machine stops with a fault: every error is the status of a response, after which
the engine takes the next command (R105, R107). So the type is empty. -/
inductive Fault where
  deriving DecidableEq, Repr

/-- The reasons for which the model gives a command no meaning (R110). -/
inductive Refusal where
  /-- Raised by `exec` for an instruction that has no meaning in the model. Safe: nothing is claimed
  of it. No arm of `exec` uses it. -/
  | notModelled (mnemonic : String)
  /-- Raised by PROC and STEP while a `DS_EN` bit is 1 and the model is not given `DS_STEP_RULE`
  (R78, R110). Safe: the run ends. -/
  | dsStepRuleUnknown
  /-- Raised by LDREF with source 2 while the model is not given `REF_ROM_2` (R59, R110). Safe: the
  run ends. -/
  | refRom2Unknown
  deriving DecidableEq, Repr

/-- What a command ends in. -/
abbrev Result := Host.Outcome State Fault Refusal

/-- The machine right after reset (R114): offsets A, no double step, nothing loaded, the identity
plugboard; and a port with no command presented and no response delivered. -/
def State.reset : State where
  off := PerSlot.same 0
  dsEn := PerSlot.same false
  rotor := PerSlot.same none
  ref := none
  pb := Table.identity
  given := givenAtReset
  inbox := []
  responses := []

end Sys2Proof.Machine
end

