-- ==== Sys2Proof/Machine/Flags.lean ====
section
/-! DEFINITION. The only flag-like outputs of the engine (10_state.md R29): the status code and the
word of a response, and the valid bits as GETCFG reads them. No command sets a condition flag. -/

namespace Sys2Proof.Machine

/-- The 3-bit code of a status (R98). -/
def Status.code : Status → BitVec 3
  | .ok => 0
  | .invalidWiring => 1
  | .invalidReflector => 2
  | .duplicateLetter => 3
  | .invalidSymbol => 4
  | .notConfigured => 5
  | .illegalCmd => 6

/-- The 8-bit response word: STATUS in bits 7:5, RESULT in bits 4:0 (R45). -/
def Response.word (r : Response) : BitVec 8 := r.status.code ++ r.result

/-- `ROT_VALID[k]`: whether LDROT has loaded slot `k` since reset (R21). -/
def State.rotValid (s : State) (k : Slot) : Bool := (s.rotor.get k).isSome

/-- `REF_VALID`: whether LDREF has succeeded since reset (R21). -/
def State.refValid (s : State) : Bool := s.ref.isSome

/-- A 1-bit flag. -/
def bit (b : Bool) : BitVec 1 := BitVec.ofBool b

/-- The valid bits as one 5-bit value: bits 0 to 2 the slots 1 to 3, bit 3 the reflector, bit 4
always 0 (R21, R97). -/
def State.validBits (s : State) : Field5 :=
  (0 : BitVec 1) ++ bit s.refValid ++ bit (s.rotValid .r3) ++ bit (s.rotValid .r2)
    ++ bit (s.rotValid .r1)

/-- A flag as a 5-bit result: `zext_5` (R97). -/
def flagBits (b : Bool) : Field5 := (bit b).setWidth 5

/-- Whether any `DS_EN` bit is 1 (R78). -/
def State.anyDs (s : State) : Bool := s.dsEn.r1 || s.dsEn.r2 || s.dsEn.r3

end Sys2Proof.Machine
end

