-- ==== Sys2Proof/Machine/Rom.lean ====
section
/-! DEFINITION. The wiring ROMs (20_memory.md R34, R35, R36): constants no command writes. -/

namespace Sys2Proof.Machine

/-- The 26-entry table a string of letters stands for: entry i is the image of letter i (R34). -/
def wiring (letters : String) : RawTable :=
  Vector.ofFn fun i => BitVec.ofNat 5 ((letters.toList.getD i.val 'A').toNat - 'A'.toNat)

/-- The rotor wiring ROM (R34). -/
def rotorRom : Fin 3 → RawTable
  | 0 => wiring "EKMFLGDQVZNTOWYHXUSPAIBRCJ"
  | 1 => wiring "AJDKSIRUXBLHWTMCQGZNPYFVOE"
  | 2 => wiring "BDFHJLCPRTXVZNYEIWGAKMUSQO"

/-- The reflector wiring ROM (R35). Entry 2 is the open parameter `REF_ROM_2`. -/
def reflectorRom : Fin 3 → RawTable
  | 0 => wiring "EJMZALYXVBWFCRQUONTSPIKHGD"
  | 1 => wiring "YRUHQSLDPXNGOKMIEBFZCWVJAT"
  | 2 => Config.refRom2

end Sys2Proof.Machine
end

