-- ==== Sys2Proof/Machine/Operands.lean ====
section
/-! DEFINITION. The operand forms: symbol operands (30_encoding.md R49), table operands from a ROM
or the payload (R31, R51), the checks a table must pass (40_permutation_reflector.md R55, R57), and
the loaded rotors a command works on. -/

namespace Sys2Proof.Machine

/-- The symbol a field holds: none for 26..31 (R11, R49, R100). -/
def letter? (b : Field5) : Option Letter :=
  if h : b.toNat < 26 then some ⟨b.toNat, h⟩ else none

/-- The 5-bit form of a symbol (R11). -/
def letterBits (x : Letter) : Field5 := BitVec.ofNat 5 x.val

/-- `TblEntry(TBL, i) = TBL[5i+4 : 5i]` (R31). -/
def tblEntry (tbl : Payload) (i : Letter) : Field5 := tbl.extractLsb' (5 * i.val) 5

/-- The 26 entries of the payload (R31). -/
def payloadTable (tbl : Payload) : RawTable := Vector.ofFn (tblEntry tbl)

/-- The table an LDROT source selects (R58). -/
def rotorSource : Source → RawTable
  | .rom k => rotorRom k
  | .payload tbl => payloadTable tbl

/-- The table an LDREF source selects (R59). -/
def reflectorSource : Source → RawTable
  | .rom k => reflectorRom k
  | .payload tbl => payloadTable tbl

/-- Whether an LDREF source is ROM entry 2, the open parameter `REF_ROM_2` (R35, R59). -/
def isOpenSource : Source → Bool
  | .rom k => k == 2
  | .payload _ => false

/-- A valid wiring: every entry at most 25, and the entries pairwise distinct (R55). -/
def isPerm (t : RawTable) : Bool :=
  decide (∀ i : Letter, (t.get i).toNat ≤ 25) && decide (∀ i j : Letter, i ≠ j → t.get i ≠ t.get j)

/-- The table of symbols in a raw table whose entries are all at most 25. -/
def symbolsOf (t : RawTable) : Table := Vector.ofFn fun i => Fin.ofNat 26 (t.get i).toNat

/-- The table of symbols in a raw table that is a valid wiring (R55). -/
def wiring? (t : RawTable) : Option Table := if isPerm t then some (symbolsOf t) else none

/-- The two checks LDREF adds to `isPerm`: self-inverse and without a fixed point (R57, R59). -/
def isFixedPointFreeInvolution (t : Table) : Bool :=
  decide (∀ i : Letter, t.get (t.get i) = i) && decide (∀ i : Letter, t.get i ≠ i)

/-- The inverse of a wiring: entry y is the x with `t[x] = y` (R23, R56). The default is never
taken, because a wiring hits every y. -/
def inverse (t : Table) : Table :=
  Vector.ofFn fun y => ((List.finRange 26).find? fun x => t.get x = y).getD 0

/-- What LDROT stores for a wiring and a turnover (R58). -/
def rotorOf (t : Table) (turn : Letter) : Rotor := ⟨t, inverse t, turn⟩

/-- The three loaded rotors, if all three `ROT_VALID` bits are 1 (R104). -/
def State.rotors? (s : State) : Option (PerSlot Rotor) :=
  match s.rotor.r1, s.rotor.r2, s.rotor.r3 with
  | some a, some b, some c => some ⟨a, b, c⟩
  | _, _, _ => none

end Sys2Proof.Machine
end

