-- ==== Sys2Proof/Machine/Ops.lean ====
section
/-! DEFINITION. The named operations over the engine's registers and tables, and the two ways a
command ends: with an OK response, or by raising an error, which takes the place of a trap
(60_exceptions.md R98, R105, R107). There is no memory to operate on (20_memory.md R33). -/

namespace Sys2Proof.Machine

/-- `OFF[k] <- o`. -/
def State.setOff (s : State) (k : Slot) (o : Letter) : State := { s with off := s.off.set k o }

/-- All three offsets at once. -/
def State.setOffsets (s : State) (o : Offsets) : State := { s with off := o }

/-- `DS_EN[k] <- en`. -/
def State.setDs (s : State) (k : Slot) (en : Bool) : State := { s with dsEn := s.dsEn.set k en }

/-- `FWD[k]`, `BWD[k]`, `TURN[k]` and `ROT_VALID[k] <- 1`, in one update (R39, R58). -/
def State.loadRotor (s : State) (k : Slot) (r : Rotor) : State :=
  { s with rotor := s.rotor.set k (some r) }

/-- `REF` and `REF_VALID <- 1`, in one update (R39, R59). -/
def State.loadRef (s : State) (t : Table) : State := { s with ref := some t }

/-- `PB`. -/
def State.setPb (s : State) (t : Table) : State := { s with pb := t }

/-- The response delivered to the host. -/
def State.deliver (s : State) (r : Response) : State := { s with responses := s.responses ++ [r] }

/-- `respond(OK, result)` (R9): the command is done and its response is delivered. -/
def respond (result : Field5) (s : State) : Result := .next (s.deliver ⟨.ok, result⟩)

/-- `raise <Status>` (R9, R105, R107): the error is reported in the response with RESULT 0, nothing
else changes, and the engine is ready for the next command. There is no trap to enter or to return
from. -/
def raise (st : Status) (s : State) : Result := .next (s.deliver ⟨st, 0⟩)

/-- A symbol operand: 26..31 raises INVALID_SYMBOL (R49, R100), and a symbol goes on to the rest of
the command. -/
def withSymbol (x : Field5) (s : State) (rest : Letter → Result) : Result :=
  match letter? x with
  | none => raise .invalidSymbol s
  | some a => rest a

/-- The images at positions `a` and `b` exchanged (R64). -/
def exchange (t : Table) (a b : Letter) : Table :=
  (t.set a (t.get b)).set b (t.get a)

/-- Whether a letter is in a plug pair (R26). -/
def inPair (pb : Table) (x : Letter) : Bool := pb.get x != x

end Sys2Proof.Machine
end

