-- ==== Sys2Proof/Machine/RotorShifter.lean ====
section
/-! DEFINITION. The stepping state machine and the flow through one rotor (42_rotor_shifter.md R70,
R76, R77, R78), and the commands STEP, SETOFF, GETOFF, SETALL and SETDS (R79 to R83). -/

namespace Sys2Proof.Machine

/-- The next, slower slot: 3 → 2 → 1, and slot 1 has none (R24). -/
def nextSlot : Slot → Option Slot
  | .r3 => some .r2
  | .r2 => some .r1
  | .r1 => none

/-- A slot and the slots after it along the chain, at most `n` of them. -/
def chainFrom : Nat → Slot → List Slot
  | 0, _ => []
  | n + 1, k =>
    k :: match nextSlot k with
      | none => []
      | some j => chainFrom n j

/-- One step of the first slot of a chain (R70): if it has a next slot and its offset equals its
turnover, the next slot is stepped first; then its own offset advances by 1 mod 26. -/
def stepChain (turn : PerSlot Letter) : List Slot → Offsets → Offsets
  | [], off => off
  | k :: slower, off =>
    let carried :=
      if !slower.isEmpty && off.get k == turn.get k then stepChain turn slower off else off
    carried.set k (carried.get k + 1)

/-- One step of slot `k`, with carry (R70). -/
def stepSlot (turn : PerSlot Letter) (k : Slot) (off : Offsets) : Offsets :=
  stepChain turn (chainFrom 3 k) off

/-- The offsets after stepping slot `k`: R70 while every `DS_EN` bit is 0, and `DS_STEP_RULE`
otherwise; refused where that parameter is needed and not given (R78, R110). -/
def stepped (rs : PerSlot Rotor) (k : Slot) (s : State) : Except Refusal Offsets :=
  if s.anyDs then
    if s.given.dsStepRule then .ok (Config.dsStepRule s.off (rs.map Rotor.turn) s.dsEn k)
    else .error .dsStepRuleUnknown
  else .ok (stepSlot (rs.map Rotor.turn) k s.off)

/-- `flow(s, x)`: shift by the offset, forward wiring, undo the shift (R76). -/
def flow (r : Rotor) (o x : Letter) : Letter := r.fwd.get (x + o) - o

/-- `rflow(s, y)`: the same through the backward wiring (R77). -/
def rflow (r : Rotor) (o y : Letter) : Letter := r.bwd.get (y + o) - o

/-- STEP: one step of slot `k`, answering its new offset (R79). -/
def execStep (k : Slot) (s : State) : Result :=
  match s.rotors? with
  | none => raise .notConfigured s
  | some rs =>
    match stepped rs k s with
    | .error why => .refused why
    | .ok off => respond (letterBits (off.get k)) (s.setOffsets off)

/-- SETOFF: write one offset, without stepping and without carry (R80). -/
def execSetoff (k : Slot) (v : Field5) (s : State) : Result :=
  withSymbol v s fun o => respond 0 (s.setOff k o)

/-- GETOFF: read one offset (R81). -/
def execGetoff (k : Slot) (s : State) : Result := respond (letterBits (s.off.get k)) s

/-- SETALL: write one letter to all three offsets (R82). -/
def execSetall (v : Field5) (s : State) : Result :=
  withSymbol v s fun o => respond 0 (s.setOffsets (PerSlot.same o))

/-- SETDS: write one double-step enable (R83). -/
def execSetds (k : Slot) (en : Bool) (s : State) : Result := respond 0 (s.setDs k en)

end Sys2Proof.Machine
end

