-- ==== Sys2Proof/Machine/Engine.lean ====
section
/-! DEFINITION. The signal path and the commands PROC, PROBE and GETCFG (43_machine.md R85, R86,
R95, R97). -/

namespace Sys2Proof.Machine

/-- The path into the reflector: the plugboard, then the rotors from fast to slow (R86). -/
def pathIn (rs : PerSlot Rotor) (pb : Table) (off : Offsets) (x : Letter) : Letter :=
  flow rs.r1 off.r1 (flow rs.r2 off.r2 (flow rs.r3 off.r3 (pb.get x)))

/-- The path back from the reflector: the rotors from slow to fast, then the plugboard (R86). -/
def pathOut (rs : PerSlot Rotor) (pb : Table) (off : Offsets) (y : Letter) : Letter :=
  pb.get (rflow rs.r3 off.r3 (rflow rs.r2 off.r2 (rflow rs.r1 off.r1 y)))

/-- `path(x)`: the nine lookups of the signal path at the given offsets (R86). -/
def path (rs : PerSlot Rotor) (ref pb : Table) (off : Offsets) (x : Letter) : Letter :=
  pathOut rs pb off (ref.get (pathIn rs pb off x))

/-- PROC: step slot 3, then send the symbol through the path at the stepped offsets (R85, R87). -/
def execProc (x : Field5) (s : State) : Result :=
  withSymbol x s fun a =>
    match s.rotors?, s.ref with
    | some rs, some ref =>
      match stepped rs .r3 s with
      | .error why => .refused why
      | .ok off => respond (letterBits (path rs ref s.pb off a)) (s.setOffsets off)
    | _, _ => raise .notConfigured s

/-- The rotor of slot `k` observed: NOT_CONFIGURED unless `ROT_VALID[k]` (R95, R97, R104). -/
def observeRotor (k : Slot) (s : State) (f : Rotor → Letter) : Result :=
  match s.rotor.get k with
  | none => raise .notConfigured s
  | some r => respond (letterBits (f r)) s

/-- The reflector observed: NOT_CONFIGURED unless `REF_VALID` (R95, R104). -/
def observeRef (s : State) (f : Table → Letter) : Result :=
  match s.ref with
  | none => raise .notConfigured s
  | some t => respond (letterBits (f t)) s

/-- PROBE: one stage on one symbol at the current offsets, without stepping (R95). A stage with a
slot it does not name, or without one it needs, is the reserved encoding of R47, so it raises
ILLEGAL_CMD, before any other check (R106). -/
def execProbe (stage : Stage) (k : Option Slot) (x : Field5) (s : State) : Result :=
  match stage, k with
  | .pb, none => withSymbol x s fun a => respond (letterBits (s.pb.get a)) s
  | .flow, some k => withSymbol x s fun a => observeRotor k s fun r => flow r (s.off.get k) a
  | .rflow, some k => withSymbol x s fun a => observeRotor k s fun r => rflow r (s.off.get k) a
  | .ref, none => withSymbol x s fun a => observeRef s fun t => t.get a
  | .fwd, some k => withSymbol x s fun a => observeRotor k s fun r => r.fwd.get a
  | .bwd, some k => withSymbol x s fun a => observeRotor k s fun r => r.bwd.get a
  | .pb, some _ | .ref, some _ | .flow, none | .rflow, none | .fwd, none | .bwd, none =>
    raise .illegalCmd s

/-- GETCFG: read one control register (R97). An item with a slot it does not name, or without one it
needs, is the reserved encoding of R47, so it raises ILLEGAL_CMD. -/
def execGetcfg (item : Item) (k : Option Slot) (s : State) : Result :=
  match item, k with
  | .turn, some k => observeRotor k s Rotor.turn
  | .ds, some k => respond (flagBits (s.dsEn.get k)) s
  | .valid, none => respond s.validBits s
  | .turn, none | .ds, none | .valid, some _ => raise .illegalCmd s

end Sys2Proof.Machine
end

