-- ==== Sys2Proof/Machine/PermutationReflector.lean ====
section
/-! DEFINITION. LDROT and LDREF (40_permutation_reflector.md R58, R59). -/

namespace Sys2Proof.Machine

/-- LDROT: load slot `k` with a wiring and its turnover letter (R58). -/
def execLdrot (k : Slot) (src : Source) (t : Field5) (s : State) : Result :=
  withSymbol t s fun turn =>
    match wiring? (rotorSource src) with
    | none => raise .invalidWiring s
    | some table => respond 0 (s.loadRotor k (rotorOf table turn))

/-- LDREF: load the reflector (R59). The refusal stands in place of the table checks, which need the
table the parameter would supply (R106). -/
def execLdref (src : Source) (s : State) : Result :=
  if isOpenSource src && !s.given.refRom2 then .refused .refRom2Unknown
  else
    match wiring? (reflectorSource src) with
    | none => raise .invalidWiring s
    | some table =>
      if isFixedPointFreeInvolution table then respond 0 (s.loadRef table)
      else raise .invalidReflector s

end Sys2Proof.Machine
end

