-- ==== Sys2Proof/Machine/Plugboard.lean ====
section
/-! DEFINITION. PLCLR and PLSWP (41_plugboard.md R63, R64). -/

namespace Sys2Proof.Machine

/-- PLCLR: the identity plugboard (R63). -/
def execPlclr (s : State) : Result := respond 0 (s.setPb Table.identity)

/-- PLSWP: add the pair (a, b), unless a letter of it is already in a pair or both are the same
(R64). -/
def execPlswp (a b : Field5) (s : State) : Result :=
  withSymbol a s fun x => withSymbol b s fun y =>
    if x = y || inPair s.pb x || inPair s.pb y then raise .duplicateLetter s
    else respond 0 (s.setPb (exchange s.pb x y))

end Sys2Proof.Machine
end

