-- ==== Sys2Proof/Machine/Dispatch.lean ====
section
/-! DEFINITION. The meaning of each command, one arm per constructor. -/

namespace Sys2Proof.Machine

def exec (i : Instr) (s : State) : Host.Outcome State Fault Refusal :=
  match i with
  | .proc x => Sys2Proof.Machine.execProc x s
  | .step k => Sys2Proof.Machine.execStep k s
  | .setoff k v => Sys2Proof.Machine.execSetoff k v s
  | .getoff k => Sys2Proof.Machine.execGetoff k s
  | .setall v => Sys2Proof.Machine.execSetall v s
  | .ldrot k src t => Sys2Proof.Machine.execLdrot k src t s
  | .ldref src => Sys2Proof.Machine.execLdref src s
  | .plclr => Sys2Proof.Machine.execPlclr s
  | .plswp a b => Sys2Proof.Machine.execPlswp a b s
  | .setds k en => Sys2Proof.Machine.execSetds k en s
  | .probe stage k x => Sys2Proof.Machine.execProbe stage k x s
  | .getcfg item k => Sys2Proof.Machine.execGetcfg item k s

end Sys2Proof.Machine
end

