-- ==== Sys2Proof/WellFormed.lean ====
section
/-! DEFINITION. Which commands have an encoding: the slot that 30_encoding.md R47 asks PROBE and
GETCFG to name, and no other. Every other operand is legal by its type. -/

namespace Sys2Proof

/-- The stages that name a rotor slot: FLOW, RFLOW, FWD and BWD (R95). -/
def Stage.namesSlot : Stage → Bool
  | .pb | .ref => false
  | .flow | .rflow | .fwd | .bwd => true

/-- The items that name a rotor slot: TURN and DS (R97). -/
def Item.namesSlot : Item → Bool
  | .valid => false
  | .turn | .ds => true

/-- PROBE and GETCFG name a slot exactly when their stage or item does (R47). -/
def Instr.wellFormed : Instr → Bool
  | .probe stage k _ => k.isSome == stage.namesSlot
  | .getcfg item k => k.isSome == item.namesSlot
  | .proc _ | .step _ | .setoff _ _ | .getoff _ | .setall _ | .ldrot _ _ _ | .ldref _ | .plclr
  | .plswp _ _ | .setds _ _ => true

/-- A command that some command word encodes. -/
abbrev WellFormed (i : Instr) : Prop := i.wellFormed = true

end Sys2Proof
end

