-- ==== Sys2Proof/Decode.lean ====
section
/-! DEFINITION. The decoder and the encoder of the 16-bit command word, written from the rows of
30_encoding.md R47. Decoding is total over all 65536 words (R48); a word no row takes is ILLEGAL, by
the name of what is wrong with it (R50, R99). -/

namespace Sys2Proof

/-- The four fields of a command word (R44). -/
structure Fields where
  op : BitVec 4
  slot : BitVec 2
  fa : Field5
  fb : Field5
  deriving DecidableEq, Repr

/-- OP = CW[15:12], SLOT = CW[11:10], FA = CW[9:5], FB = CW[4:0] (R9, R44). -/
def fieldsOf (cw : CommandWord) : Fields :=
  ⟨cw.extractLsb' 12 4, cw.extractLsb' 10 2, cw.extractLsb' 5 5, cw.extractLsb' 0 5⟩

/-- The command word with these fields (R44). -/
def wordOf (op : BitVec 4) (slot : BitVec 2) (fa fb : Field5) : CommandWord :=
  op ++ slot ++ fa ++ fb

/-- The slot a SLOT field names: 1..3, or none for 0 (R44). -/
def slotOf (b : BitVec 2) : Option Slot :=
  match b.toNat with
  | 1 => some .r1
  | 2 => some .r2
  | 3 => some .r3
  | _ => none

/-- The SLOT field of a slot. -/
def slotBits : Slot → BitVec 2
  | .r1 => 1
  | .r2 => 2
  | .r3 => 3

/-- The SLOT field of a slot or of none. -/
def slotOrNoneBits : Option Slot → BitVec 2
  | none => 0
  | some k => slotBits k

/-- A `src` field: 0, 1, 2 select a ROM entry and 31 the payload; 3..30 are reserved (R50, R51). -/
def sourceOf (fa : Field5) (tbl : Payload) : Option Source :=
  match fa.toNat with
  | 0 => some (.rom 0)
  | 1 => some (.rom 1)
  | 2 => some (.rom 2)
  | 31 => some (.payload tbl)
  | _ => none

/-- The `src` field of a source. -/
def sourceBits : Source → Field5
  | .rom k => BitVec.ofNat 5 k.val
  | .payload _ => 31

/-- A `stage` field (R95); 6..31 are reserved (R50). -/
def stageOf (fa : Field5) : Option Stage :=
  match fa.toNat with
  | 0 => some .pb
  | 1 => some .flow
  | 2 => some .rflow
  | 3 => some .ref
  | 4 => some .fwd
  | 5 => some .bwd
  | _ => none

/-- The `stage` field of a stage. -/
def stageBits : Stage → Field5
  | .pb => 0
  | .flow => 1
  | .rflow => 2
  | .ref => 3
  | .fwd => 4
  | .bwd => 5

/-- An `item` field (R22); 3..31 are reserved (R50). -/
def itemOf (fa : Field5) : Option Item :=
  match fa.toNat with
  | 0 => some .turn
  | 1 => some .ds
  | 2 => some .valid
  | _ => none

/-- The `item` field of an item. -/
def itemBits : Item → Field5
  | .turn => 0
  | .ds => 1
  | .valid => 2

/-- The command, if it is well formed: the SLOT condition of PROBE's and GETCFG's rows (R47). -/
def onlyWellFormed (i : Instr) : Option Instr :=
  if i.wellFormed then some i else none

/-- One row of R47. `build` reads the operands from the fields and the payload, and answers none
where the row's extra decode condition fails. -/
structure Row where
  code : CommandWord
  mask : CommandWord
  build : Fields → Payload → Option Instr

/-- The twelve rows of R47, in the table's order. -/
def rows : List Row :=
  [ ⟨0x1000, 0xFFE0, fun f _ => some (.proc f.fb)⟩,
    ⟨0x2000, 0xF3FF, fun f _ => (slotOf f.slot).map fun k => .step k⟩,
    ⟨0x3000, 0xF3E0, fun f _ => (slotOf f.slot).map fun k => .setoff k f.fb⟩,
    ⟨0x4000, 0xF3FF, fun f _ => (slotOf f.slot).map fun k => .getoff k⟩,
    ⟨0x5000, 0xFFE0, fun f _ => some (.setall f.fb)⟩,
    ⟨0x6000, 0xF000, fun f tbl => (slotOf f.slot).bind fun k =>
        (sourceOf f.fa tbl).map fun src => .ldrot k src f.fb⟩,
    ⟨0x7000, 0xFC1F, fun f tbl => (sourceOf f.fa tbl).map fun src => .ldref src⟩,
    ⟨0x8000, 0xFFFF, fun _ _ => some .plclr⟩,
    ⟨0x9000, 0xFC00, fun f _ => some (.plswp f.fa f.fb)⟩,
    ⟨0xA000, 0xF3FE, fun f _ => (slotOf f.slot).map fun k => .setds k (f.fb.getLsbD 0)⟩,
    ⟨0xB000, 0xF000, fun f _ => (stageOf f.fa).bind fun stage =>
        onlyWellFormed (.probe stage (slotOf f.slot) f.fb)⟩,
    ⟨0xC000, 0xF01F, fun f _ => (itemOf f.fa).bind fun item =>
        onlyWellFormed (.getcfg item (slotOf f.slot))⟩ ]

/-- What is wrong with an ILLEGAL word (R50, R99). All of them answer ILLEGAL_CMD. -/
inductive Illegal where
  /-- OP is 0x0, 0xD, 0xE or 0xF. -/
  | reservedOpcode
  /-- A must-be-zero field is not zero, SETDS's FB[4:1] among them. -/
  | mustBeZero
  /-- A SLOT, source, stage or item value is outside the command's list. -/
  | outsideList
  deriving DecidableEq, Repr

/-- What decoding yields: a command, or ILLEGAL (R48). -/
inductive Decoded where
  | cmd (i : Instr)
  | illegal (why : Illegal)
  deriving DecidableEq, Repr

/-- The command a row reads from a word, if the word is of that row (R48). -/
def Row.read (r : Row) (cw : CommandWord) (tbl : Payload) : Option Instr :=
  if cw &&& r.mask = r.code then r.build (fieldsOf cw) tbl else none

/-- Why no row takes a word. -/
def whyIllegal (cw : CommandWord) : Illegal :=
  match rows.find? fun r => r.code &&& 0xF000 == cw &&& 0xF000 with
  | none => .reservedOpcode
  | some r => if cw &&& r.mask = r.code then .outsideList else .mustBeZero

/-- Decoding of a command word with the payload that goes with it (R48). -/
def decode (cw : CommandWord) (tbl : Payload) : Decoded :=
  match rows.findSome? fun r => r.read cw tbl with
  | some i => .cmd i
  | none => .illegal (whyIllegal cw)

/-- The command word of a command, from R46 and R47. For a well-formed command it decodes to the
command; PROBE and GETCFG that are not well formed encode to a word that is ILLEGAL. -/
def encode : Instr → CommandWord
  | .proc x => wordOf 0x1 0 0 x
  | .step k => wordOf 0x2 (slotBits k) 0 0
  | .setoff k v => wordOf 0x3 (slotBits k) 0 v
  | .getoff k => wordOf 0x4 (slotBits k) 0 0
  | .setall v => wordOf 0x5 0 0 v
  | .ldrot k src t => wordOf 0x6 (slotBits k) (sourceBits src) t
  | .ldref src => wordOf 0x7 0 (sourceBits src) 0
  | .plclr => wordOf 0x8 0 0 0
  | .plswp a b => wordOf 0x9 0 a b
  | .setds k en => wordOf 0xA (slotBits k) 0 (if en then 1 else 0)
  | .probe stage k x => wordOf 0xB (slotOrNoneBits k) (stageBits stage) x
  | .getcfg item k => wordOf 0xC (slotOrNoneBits k) (itemBits item) 0

/-- The payload a source reads, if it reads one (R32). -/
def Source.payload? : Source → Option Payload
  | .rom _ => none
  | .payload tbl => some tbl

/-- The payload a command reads, if it reads one: only LDROT and LDREF with FA = 31 (R32). -/
def Instr.payload? : Instr → Option Payload
  | .ldrot _ src _ => src.payload?
  | .ldref src => src.payload?
  | .proc _ | .step _ | .setoff _ _ | .getoff _ | .setall _ | .plclr | .plswp _ _ | .setds _ _
  | .probe _ _ _ | .getcfg _ _ => none

/-- The payload sent beside a command's word: the table it reads, or zeros where it reads none (any
value would do, R32). -/
def encodePayload (i : Instr) : Payload := i.payload?.getD 0

/-- The command in a decoding, if there is one. -/
def Decoded.instr? : Decoded → Option Instr
  | .cmd i => some i
  | .illegal _ => none

/-- The command whose word has the table's bits `w`, of which the table numbers `nbits`. A command
word is its own 16 bits (R52), and the payload beside it is zeros. -/
def decodeTableWord (nbits w : Nat) : Option Instr :=
  (decode (BitVec.ofNat 16 (w % 2 ^ nbits)) 0).instr?

end Sys2Proof
end

