-- ==== Sys2Proof/Machine/Port.lean ====
section
/-! DEFINITION. The command port (00_scope.md R10, 20_memory.md R41, 70_reset_and_hazards.md R125):
taking the next host interaction, reset, and a word that is no command. -/

namespace Sys2Proof.Machine

/-- The next host interaction, and the state in which it has been taken from the port (R41). -/
def takeInput (s : State) : Option (HostInput × State) :=
  match s.inbox with
  | [] => none
  | x :: rest => some (x, { s with inbox := rest })

/-- Reset asserted by the host: the engine state of R114, with no response (R125). The host's side,
what it has yet to do and what it has received, is not engine state and stays. -/
def hostReset (s : State) : Result :=
  .next { State.reset with given := s.given, inbox := s.inbox, responses := s.responses }

/-- A word that decodes to ILLEGAL executes as `raise ILLEGAL_CMD` (R48, R99). -/
def execIllegal (s : State) : Result := raise .illegalCmd s

/-- An engine with no command presented is idle, which is final and not stuck (R125): nothing
changes. -/
def idle (s : State) : Result := .next s

/-- The same state with one interaction presented before all others. -/
def State.presentNext (s : State) (x : HostInput) : State := { s with inbox := x :: s.inbox }

/-- The same state with the host's further interactions presented, in order (R126). -/
def State.present (s : State) (xs : List HostInput) : State := { s with inbox := s.inbox ++ xs }

/-- The interaction by which the host presents a command: its word and the payload it reads. -/
def presented (i : Instr) : HostInput := .command (encode i) (encodePayload i)

end Sys2Proof.Machine
end

