-- ==== Sys2Proof/Machine/Step.lean ====
section
/-! DEFINITION. One step: the next host interaction, taken and executed (20_memory.md R41). -/

namespace Sys2Proof.Machine

/-- One step: the next host interaction is taken from the port; a command is decoded and executed,
an ILLEGAL word raises ILLEGAL_CMD (R48), reset resets (R114); with nothing presented the engine is
idle (R125). -/
def step (s : State) : Host.Outcome State Fault Refusal :=
  match takeInput s with
  | none => idle s
  | some (.reset, taken) => hostReset taken
  | some (.command cw tbl, taken) =>
    match decode cw tbl with
    | .cmd i => exec i taken
    | .illegal _ => execIllegal taken

/-- The state with the command word of the table's bits `w` presented as the next host interaction,
the payload beside it zeros. The engine fetches nothing (R28): this is the host presenting the
command (log entry 2). -/
def State.withFetchWord (s : State) (nbits w : Nat) : State :=
  s.presentNext (.command (BitVec.ofNat 16 (w % 2 ^ nbits)) 0)

end Sys2Proof.Machine
end

