-- ==== Sys2Proof/Machine/Run.lean ====
section
/-! DEFINITION. Runs (70_reset_and_hazards.md R126) and what the host makes of a sequence of
responses (30_encoding.md R54, 43_machine.md R92). -/

namespace Sys2Proof.Machine

/-- The host presents the interactions after those already presented, and the engine takes them
all. -/
def runInputs (s : State) (xs : List HostInput) : Result :=
  Sys2Proof.core.run (s.inbox.length + xs.length) (s.present xs)

/-- A run: host interactions starting from reset (R126). -/
def runFromReset (xs : List HostInput) : Result := runInputs State.reset xs

/-- The host presents the commands in order. -/
def runCommands (s : State) (is : List Instr) : Result := runInputs s (is.map presented)

/-- The output of a sequence of PROC commands: the result letters in order, or nothing if any
response is not OK, since the host must then treat the whole sequence as failed (R54). -/
def sequenceOutput : List Response → Option (List Letter)
  | [] => some []
  | r :: rest =>
    if r.status = .ok then
      match letter? r.result, sequenceOutput rest with
      | some x, some xs => some (x :: xs)
      | _, _ => none
    else none

end Sys2Proof.Machine
end

