-- ==== Sys2Proof/Machine/Macro.lean ====
section
/-! DEFINITION. The host macros and their fixed expansions (30_encoding.md R54). -/

namespace Sys2Proof.Machine

/-- The pseudo-instructions of R54. -/
inductive HostMacro where
  | setpos (a b c : Field5)
  | plugs (pairs : List (Field5 × Field5))
  | procseq (text : List Field5)
  | machine (k1 : Fin 3) (t1 : Field5) (k2 : Fin 3) (t2 : Field5) (k3 : Fin 3) (t3 : Field5)
      (kr : Fin 3) (pairs : List (Field5 × Field5)) (start : Field5)
  deriving DecidableEq, Repr

/-- `PLUGS`: PLCLR, then one PLSWP per pair, left to right. -/
def expandPlugs (pairs : List (Field5 × Field5)) : List Instr :=
  .plclr :: pairs.map fun p => .plswp p.1 p.2

/-- The commands a macro stands for, in order (R54). -/
def HostMacro.expand : HostMacro → List Instr
  | .setpos a b c => [.setoff .r1 a, .setoff .r2 b, .setoff .r3 c]
  | .plugs pairs => expandPlugs pairs
  | .procseq text => text.map .proc
  | .machine k1 t1 k2 t2 k3 t3 kr pairs start =>
    [.ldrot .r1 (.rom k1) t1, .ldrot .r2 (.rom k2) t2, .ldrot .r3 (.rom k3) t3, .ldref (.rom kr)]
      ++ expandPlugs pairs ++ [.setall start]

end Sys2Proof.Machine
end

