-- ==== Sys2Proof/Safety.lean ====
section
/-! DEFINITION. What counts as a good state and as an error, in the terms the statements use: the
table invariants of 10_state.md R23, R25 and R26, the checks of 40_permutation_reflector.md R55 and
R57 as the spec words them, and the causes of 60_exceptions.md R100 and R104. -/

namespace Sys2Proof.Machine

/-- `FWD` and `BWD` are mutual bijections (R23, R27). -/
def Rotor.Good (r : Rotor) : Prop :=
  (∀ x : Letter, r.bwd.get (r.fwd.get x) = x) ∧ (∀ y : Letter, r.fwd.get (r.bwd.get y) = y)

/-- A table is self-inverse. -/
def Involution (t : Table) : Prop := ∀ x : Letter, t.get (t.get x) = x

/-- No letter maps to itself. -/
def NoFixedPoint (t : Table) : Prop := ∀ x : Letter, t.get x ≠ x

/-- The invariants of the engine's tables: every loaded rotor has its inverse beside it (R23), a
loaded reflector is a fixed-point-free involution (R25), the plugboard is an involution (R26). -/
structure State.Good (s : State) : Prop where
  rotors : ∀ k r, s.rotor.get k = some r → r.Good
  reflector : ∀ t, s.ref = some t → Involution t ∧ NoFixedPoint t
  plugboard : Involution s.pb

/-- The three rotors and the reflector are loaded, with these contents (R104). -/
def State.Loaded (s : State) (rs : PerSlot Rotor) (ref : Table) : Prop :=
  s.rotor = ⟨some rs.r1, some rs.r2, some rs.r3⟩ ∧ s.ref = some ref

/-- Every `DS_EN` bit is 0 (R70). -/
def State.BaseStepping (s : State) : Prop := s.dsEn = ⟨false, false, false⟩

/-- The model is given both open parameters (R8). -/
def State.FullyGiven (s : State) : Prop := s.given = ⟨true, true⟩

/-- Two states with the same engine state (R13) and the same parameters, whatever the host has yet
to present or has received. -/
def State.SameEngine (s u : State) : Prop :=
  u.off = s.off ∧ u.dsEn = s.dsEn ∧ u.rotor = s.rotor ∧ u.ref = s.ref ∧ u.pb = s.pb
    ∧ u.given = s.given

/-- The host's side after one command: one more response and nothing taken from the port. -/
def OneResponse (s u : State) : Prop :=
  u.given = s.given ∧ u.inbox = s.inbox ∧ ∃ r, u.responses = s.responses ++ [r]

/-- A valid wiring, in the spec's words: every entry at most 25, entries pairwise distinct (R55). -/
def ValidWiring (t : RawTable) : Prop :=
  (∀ i : Letter, (t.get i).toNat ≤ 25) ∧ ∀ i j : Letter, i ≠ j → t.get i ≠ t.get j

/-- What a valid reflector is besides a valid wiring: self-inverse, without a fixed point (R57). -/
def SelfInverseWithoutFixedPoint (t : RawTable) : Prop :=
  ∀ i j : Letter, (t.get i).toNat = j.val → (t.get j).toNat = i.val ∧ i ≠ j

/-- A table of symbols with the entries of a raw table. -/
def SameEntries (t : Table) (raw : RawTable) : Prop :=
  ∀ i : Letter, (t.get i).val = (raw.get i).toNat

/-- A symbol field of the command holds 26..31 (R100). -/
def BadSymbol : Instr → Prop
  | .proc x | .setoff _ x | .setall x | .ldrot _ _ x | .probe _ _ x => 25 < x.toNat
  | .plswp a b => 25 < a.toNat ∨ 25 < b.toNat
  | .step _ | .getoff _ | .ldref _ | .plclr | .setds _ _ | .getcfg _ _ => False

/-- The command needs configuration that has not been loaded since reset (R104). -/
def Unconfigured (s : State) : Instr → Prop
  | .proc _ => (∃ k, s.rotValid k = false) ∨ s.refValid = false
  | .step _ => ∃ k, s.rotValid k = false
  | .probe stage k _ =>
    (stage = .ref ∧ s.refValid = false) ∨
      ∃ j, stage.namesSlot = true ∧ k = some j ∧ s.rotValid j = false
  | .getcfg item k => ∃ j, item = .turn ∧ k = some j ∧ s.rotValid j = false
  | .setoff _ _ | .getoff _ | .setall _ | .ldrot _ _ _ | .ldref _ | .plclr | .plswp _ _
  | .setds _ _ => False

/-- The command returns a value in RESULT (R45): PROC, STEP, GETOFF, PROBE and GETCFG do. -/
def ReturnsValue : Instr → Prop
  | .proc _ | .step _ | .getoff _ | .probe _ _ _ | .getcfg _ _ => True
  | .setoff _ _ | .setall _ | .ldrot _ _ _ | .ldref _ | .plclr | .plswp _ _ | .setds _ _ => False

/-- The state after a command that only answers, with this response. -/
def State.answering (s : State) (st : Status) (result : Field5) : State :=
  { s with responses := s.responses ++ [⟨st, result⟩] }

/-- The machine went on: neither a fault nor a refusal. -/
def WentOn (o : Result) : Prop := ∃ s, o = .next s

/-- The PROC commands of a list of letters, in order (R92). -/
def procCommands (xs : List Letter) : List Instr := xs.map fun x => .proc (letterBits x)

/-- The OK responses carrying a list of letters, in order. -/
def okLetters (xs : List Letter) : List Response := xs.map fun x => ⟨.ok, letterBits x⟩

/-- `n` steps of the fast slot from the given offsets (R75). -/
def stepsFrom3 (turn : PerSlot Letter) : Nat → Offsets → Offsets
  | 0, off => off
  | n + 1, off => stepsFrom3 turn n (stepSlot turn .r3 off)

/-- Commands executed one after another, as long as each goes on (R41). -/
def execAll : List Instr → State → Result
  | [], s => .next s
  | i :: rest, s =>
    match exec i s with
    | .next u => execAll rest u
    | .fault r => .fault r
    | .refused r => .refused r

end Sys2Proof.Machine
end

