-- ==== Sys2Proof/Certificates/Slice0/Obligations.lean ====
section
/-! DEFINITION. The statements for the provers, from the numbered rules of spec/. The engine has no
memory and no program counter (20_memory.md R33, 10_state.md R28), so no frame speaks of them. -/

open Sys2Proof Sys2Proof.Machine

/-- R44, R46, R47: words written out from their bits decode to the commands they stand for. -/
def Obligations.WordsDecodeToTheirCommands : Prop :=
  ∀ tbl : Payload,
    decode 0b0001_00_00000_00111 tbl = .cmd (.proc 7)
    ∧ decode 0b0010_11_00000_00000 tbl = .cmd (.step .r3)
    ∧ decode 0b0110_01_00000_10000 tbl = .cmd (.ldrot .r1 (.rom 0) 16)
    ∧ decode 0b0111_00_11111_00000 tbl = .cmd (.ldref (.payload tbl))
    ∧ decode 0b1001_00_00000_00100 tbl = .cmd (.plswp 0 4)
    ∧ decode 0b1011_11_00001_00000 tbl = .cmd (.probe .flow (some .r3) 0)

/-- R47, R48: the word of a well-formed command decodes to the command, whatever payload travels
with it, so long as it is the one the command reads, if it reads one (R32). -/
def Obligations.DecodeOfEncodeIsTheCommand : Prop :=
  ∀ (i : Instr) (tbl : Payload), WellFormed i → (∀ p, i.payload? = some p → p = tbl) →
    decode (encode i) tbl = .cmd i

/-- R48: the converse of the round trip. Each word has one meaning: a word that decodes to a command
is that command's own word, the command is well formed, and the payload it reads is the one
presented. -/
def Obligations.EachCommandHasOneWord : Prop :=
  ∀ (cw : CommandWord) (tbl : Payload) (i : Instr), decode cw tbl = .cmd i →
    encode i = cw ∧ WellFormed i ∧ ∀ p, i.payload? = some p → p = tbl

/-- R47: each row's field values, for every word by its four fields. -/
def Obligations.FieldsThatEachCommandAllows : Prop :=
  ∀ (op : BitVec 4) (slot : BitVec 2) (fa fb : Field5) (tbl : Payload),
    (∀ x, decode (wordOf op slot fa fb) tbl = .cmd (.proc x)
      ↔ op = 1 ∧ slot = 0 ∧ fa = 0 ∧ fb = x)
    ∧ (∀ k, decode (wordOf op slot fa fb) tbl = .cmd (.step k)
      ↔ op = 2 ∧ slot = slotBits k ∧ fa = 0 ∧ fb = 0)
    ∧ (∀ k v, decode (wordOf op slot fa fb) tbl = .cmd (.setoff k v)
      ↔ op = 3 ∧ slot = slotBits k ∧ fa = 0 ∧ fb = v)
    ∧ (∀ k, decode (wordOf op slot fa fb) tbl = .cmd (.getoff k)
      ↔ op = 4 ∧ slot = slotBits k ∧ fa = 0 ∧ fb = 0)
    ∧ (∀ v, decode (wordOf op slot fa fb) tbl = .cmd (.setall v)
      ↔ op = 5 ∧ slot = 0 ∧ fa = 0 ∧ fb = v)
    ∧ (∀ k src t, decode (wordOf op slot fa fb) tbl = .cmd (.ldrot k src t)
      ↔ op = 6 ∧ slot = slotBits k ∧ fb = t
        ∧ ((fa = 0 ∧ src = .rom 0) ∨ (fa = 1 ∧ src = .rom 1) ∨ (fa = 2 ∧ src = .rom 2)
          ∨ (fa = 31 ∧ src = .payload tbl)))
    ∧ (∀ src, decode (wordOf op slot fa fb) tbl = .cmd (.ldref src)
      ↔ op = 7 ∧ slot = 0 ∧ fb = 0
        ∧ ((fa = 0 ∧ src = .rom 0) ∨ (fa = 1 ∧ src = .rom 1) ∨ (fa = 2 ∧ src = .rom 2)
          ∨ (fa = 31 ∧ src = .payload tbl)))
    ∧ (decode (wordOf op slot fa fb) tbl = .cmd .plclr
      ↔ op = 8 ∧ slot = 0 ∧ fa = 0 ∧ fb = 0)
    ∧ (∀ a b, decode (wordOf op slot fa fb) tbl = .cmd (.plswp a b)
      ↔ op = 9 ∧ slot = 0 ∧ fa = a ∧ fb = b)
    ∧ (∀ k en, decode (wordOf op slot fa fb) tbl = .cmd (.setds k en)
      ↔ op = 10 ∧ slot = slotBits k ∧ fa = 0 ∧ ((fb = 0 ∧ en = false) ∨ (fb = 1 ∧ en = true)))
    ∧ (∀ stage k x, decode (wordOf op slot fa fb) tbl = .cmd (.probe stage k x)
      ↔ op = 11 ∧ fb = x
        ∧ ((fa = 0 ∧ stage = .pb ∧ slot = 0 ∧ k = none)
          ∨ (fa = 1 ∧ stage = .flow ∧ ∃ j, slot = slotBits j ∧ k = some j)
          ∨ (fa = 2 ∧ stage = .rflow ∧ ∃ j, slot = slotBits j ∧ k = some j)
          ∨ (fa = 3 ∧ stage = .ref ∧ slot = 0 ∧ k = none)
          ∨ (fa = 4 ∧ stage = .fwd ∧ ∃ j, slot = slotBits j ∧ k = some j)
          ∨ (fa = 5 ∧ stage = .bwd ∧ ∃ j, slot = slotBits j ∧ k = some j)))
    ∧ (∀ item k, decode (wordOf op slot fa fb) tbl = .cmd (.getcfg item k)
      ↔ op = 12 ∧ fb = 0
        ∧ ((fa = 0 ∧ item = .turn ∧ ∃ j, slot = slotBits j ∧ k = some j)
          ∨ (fa = 1 ∧ item = .ds ∧ ∃ j, slot = slotBits j ∧ k = some j)
          ∨ (fa = 2 ∧ item = .valid ∧ slot = 0 ∧ k = none)))

/-- R50: the reserved encodings, each executing as ILLEGAL_CMD with no state change. -/
def Obligations.ReservedEncodingsAnswerIllegalCmd : Prop :=
  ∀ (s : State) (op : BitVec 4) (slot : BitVec 2) (fa fb : Field5) (tbl : Payload),
    (op = 0 ∨ op = 13 ∨ op = 14 ∨ op = 15
      ∨ (op = 1 ∧ (slot ≠ 0 ∨ fa ≠ 0))
      ∨ (op = 2 ∧ (slot = 0 ∨ fa ≠ 0 ∨ fb ≠ 0))
      ∨ (op = 3 ∧ (slot = 0 ∨ fa ≠ 0))
      ∨ (op = 4 ∧ (slot = 0 ∨ fa ≠ 0 ∨ fb ≠ 0))
      ∨ (op = 5 ∧ (slot ≠ 0 ∨ fa ≠ 0))
      ∨ (op = 6 ∧ (slot = 0 ∨ (3 ≤ fa.toNat ∧ fa.toNat ≤ 30)))
      ∨ (op = 7 ∧ (slot ≠ 0 ∨ (3 ≤ fa.toNat ∧ fa.toNat ≤ 30) ∨ fb ≠ 0))
      ∨ (op = 8 ∧ (slot ≠ 0 ∨ fa ≠ 0 ∨ fb ≠ 0))
      ∨ (op = 9 ∧ slot ≠ 0)
      ∨ (op = 10 ∧ (slot = 0 ∨ fa ≠ 0 ∨ 2 ≤ fb.toNat))
      ∨ (op = 11 ∧ (6 ≤ fa.toNat ∨ ((fa = 0 ∨ fa = 3) ∧ slot ≠ 0)
          ∨ ((fa = 1 ∨ fa = 2 ∨ fa = 4 ∨ fa = 5) ∧ slot = 0)))
      ∨ (op = 12 ∧ (3 ≤ fa.toNat ∨ fb ≠ 0 ∨ ((fa = 0 ∨ fa = 1) ∧ slot = 0)
          ∨ (fa = 2 ∧ slot ≠ 0)))) →
    step (s.presentNext (.command (wordOf op slot fa fb) tbl)) = .next (s.answering .illegalCmd 0)

/-- R99: every word that decodes to ILLEGAL raises ILLEGAL_CMD, with RESULT 0 and no state change. -/
def Obligations.IllegalWordsRaiseIllegalCmd : Prop :=
  ∀ (s : State) (cw : CommandWord) (tbl : Payload), (∀ i, decode cw tbl ≠ .cmd i) →
    step (s.presentNext (.command cw tbl)) = .next (s.answering .illegalCmd 0)

/-- R32: the payload is read only in LDROT and LDREF with FA = 31. -/
def Obligations.OnlyTableLoadsReadThePayload : Prop :=
  ∀ (op : BitVec 4) (slot : BitVec 2) (fa fb : Field5) (tbl tbl' : Payload),
    ¬((op = 6 ∨ op = 7) ∧ fa = 31) →
    ∀ s : State, step (s.presentNext (.command (wordOf op slot fa fb) tbl))
      = step (s.presentNext (.command (wordOf op slot fa fb) tbl'))

/-- R31: entry i of the payload is TBL[5i+4 : 5i], and a value 26..31 makes the table invalid. -/
def Obligations.PayloadEntriesAndTheirRange : Prop :=
  ∀ (tbl : Payload) (i : Letter),
    (∀ j < 5, ((payloadTable tbl).get i).getLsbD j = tbl.getLsbD (5 * i.val + j))
    ∧ (25 < ((payloadTable tbl).get i).toNat → ∀ (s : State) (k : Slot) (t : Field5),
        t.toNat ≤ 25 →
        exec (.ldrot k (.payload tbl) t) s = .next (s.answering .invalidWiring 0)
        ∧ exec (.ldref (.payload tbl)) s = .next (s.answering .invalidWiring 0))

/-- R41: a command presented next is taken from the port and executed, and the engine does nothing
else; R48: what runs is the decoded command. -/
def Obligations.StepRunsTheDecodedCommand : Prop :=
  ∀ (s : State) (cw : CommandWord) (tbl : Payload) (rest : List HostInput) (i : Instr),
    s.inbox = .command cw tbl :: rest → decode cw tbl = .cmd i →
    step s = exec i { s with inbox := rest }

/-- R41: commands are executed one at a time in the order presented, so presenting two lists one
after the other is presenting the first, and then the second in the state it leaves. -/
def Obligations.InteractionsAreTakenInOrder : Prop :=
  ∀ (s t : State) (xs ys : List HostInput), s.inbox = [] → runInputs s xs = .next t →
    runInputs s (xs ++ ys) = runInputs t ys

/-- R125: an engine waiting for a command is idle, and stays as it is. -/
def Obligations.IdleEngineStaysAsItIs : Prop :=
  ∀ s : State, s.inbox = [] → step s = .next s

/-- R114: what reset leaves in the engine, whenever the host asserts it, and that each item without a
value reads as NOT_CONFIGURED. A reset has no response (70_reset_and_hazards.md R125). That reset
leaves what the host has yet to present, and the responses already delivered, as they are is the
model's choice (log entry 2), because those two lists are the model's own and not engine state. -/
def Obligations.ResetSetsTheEngine : Prop :=
  ∀ (s : State) (rest : List HostInput), s.inbox = .reset :: rest →
    ∃ t, step s = .next t
      ∧ t.inbox = rest ∧ t.responses = s.responses
      ∧ (∀ k, t.off.get k = 0) ∧ (∀ k, t.dsEn.get k = false) ∧ (∀ i, t.pb.get i = i)
      ∧ (∀ k, t.rotValid k = false) ∧ t.refValid = false
      ∧ (∀ k, t.rotor.get k = none) ∧ t.ref = none
      ∧ (∀ k (x : Letter), exec (.getcfg .turn (some k)) t = .next (t.answering .notConfigured 0)
          ∧ exec (.step k) t = .next (t.answering .notConfigured 0)
          ∧ exec (.proc (letterBits x)) t = .next (t.answering .notConfigured 0)
          ∧ exec (.probe .ref none (letterBits x)) t = .next (t.answering .notConfigured 0)
          ∧ ∀ stage : Stage, stage.namesSlot = true →
              exec (.probe stage (some k) (letterBits x)) t = .next (t.answering .notConfigured 0))

/-- R114, as the machine stands before any interaction. That nothing has been presented and no
response delivered (`inbox` and `responses` empty) is the model's choice of a reset value for its
own two fields (log entry 2), and R114 does not speak of them. -/
def Obligations.MachineStartsReset : Prop :=
  State.reset.off = ⟨0, 0, 0⟩ ∧ State.reset.dsEn = ⟨false, false, false⟩
    ∧ (∀ i, State.reset.pb.get i = i) ∧ State.reset.rotor = ⟨none, none, none⟩
    ∧ State.reset.ref = none ∧ State.reset.inbox = [] ∧ State.reset.responses = []

/-- The table invariants hold after reset (R25, R26 and R114). -/
def Obligations.ResetTablesAreGood : Prop := State.reset.Good

/-- R23, R25, R26: the table invariants are kept by every step, from every state that has them. -/
def Obligations.EveryStepKeepsTheTablesGood : Prop :=
  ∀ s t : State, s.Good → step s = .next t → t.Good

/-- R21: only a successful LDROT or LDREF sets a valid bit, and nothing clears one but reset. -/
def Obligations.ValidBitsAreSetByLoadsAndClearedByReset : Prop :=
  ∀ s t : State, step s = .next t →
    (∀ k, s.rotValid k = true → t.rotValid k = false → ∃ rest, s.inbox = .reset :: rest)
    ∧ (s.refValid = true → t.refValid = false → ∃ rest, s.inbox = .reset :: rest)
    ∧ (∀ k, s.rotValid k = false → t.rotValid k = true →
        ∃ cw tbl rest src x, s.inbox = .command cw tbl :: rest
          ∧ decode cw tbl = .cmd (.ldrot k src x) ∧ t.responses = s.responses ++ [⟨.ok, 0⟩])
    ∧ (s.refValid = false → t.refValid = true →
        ∃ cw tbl rest src, s.inbox = .command cw tbl :: rest
          ∧ decode cw tbl = .cmd (.ldref src) ∧ t.responses = s.responses ++ [⟨.ok, 0⟩])
    ∧ (s.validBits.getLsbD 0 = s.rotValid .r1 ∧ s.validBits.getLsbD 1 = s.rotValid .r2
        ∧ s.validBits.getLsbD 2 = s.rotValid .r3 ∧ s.validBits.getLsbD 3 = s.refValid
        ∧ s.validBits.getLsbD 4 = false)
    ∧ exec (.getcfg .valid none) s = .next (s.answering .ok s.validBits)

/-- The model's choice, log entries 3 and 4: given both open parameters (R8), no step stops, and the
parameters stay given. -/
def Obligations.NoStepStopsWithTheParametersGiven : Prop :=
  ∀ s : State, s.FullyGiven → ∃ t, step s = .next t ∧ t.FullyGiven

/-- R110: the two model-level refusals, exactly where they arise, after the checks of R106. -/
def Obligations.RefusalsArisePreciselyForMissingParameters : Prop :=
  ∀ (i : Instr) (s : State),
    (exec i s = .refused .dsStepRuleUnknown ↔
      s.given.dsStepRule = false ∧ (∃ k, s.dsEn.get k = true) ∧ ¬BadSymbol i ∧ ¬Unconfigured s i
        ∧ ((∃ k, i = .step k) ∨ ∃ x, i = .proc x))
    ∧ (exec i s = .refused .refRom2Unknown ↔ s.given.refRom2 = false ∧ i = .ldref (.rom 2))
    ∧ (∀ why, exec i s = .refused why → why = .dsStepRuleUnknown ∨ why = .refRom2Unknown)
    ∧ (∀ why, exec i s ≠ .fault why)
    ∧ (∀ why n, step s = .refused why → Sys2Proof.core.run (n + 1) s = .refused why)

/-- R105: a command word that ends with a non-OK status writes nothing and answers RESULT 0. -/
def Obligations.FailingCommandsWriteNothing : Prop :=
  ∀ (s t : State) (cw : CommandWord) (tbl : Payload) (rest : List HostInput) (r : Response),
    s.inbox = .command cw tbl :: rest → step s = .next t →
    t.responses = s.responses ++ [r] → r.status ≠ .ok →
    t = { s with inbox := rest, responses := s.responses ++ [⟨r.status, 0⟩] }

/-- R45: the response word, and RESULT 0 where the status is not OK or no value is returned. -/
def Obligations.ResponseWordAndItsResult : Prop :=
  (∀ r : Response, r.word.extractLsb' 5 3 = r.status.code ∧ r.word.extractLsb' 0 5 = r.result)
    ∧ ∀ (s t : State) (cw : CommandWord) (tbl : Payload) (rest : List HostInput),
        s.inbox = .command cw tbl :: rest → step s = .next t →
        ∃ r, t.responses = s.responses ++ [r]
          ∧ (r.status ≠ .ok → r.result = 0)
          ∧ ∀ i, decode cw tbl = .cmd i → ¬ReturnsValue i → r.result = 0

/-- R98: the status codes, and which commands raise which. -/
def Obligations.StatusCodesAndWhoRaisesThem : Prop :=
  (Status.code .ok = 0 ∧ Status.code .invalidWiring = 1 ∧ Status.code .invalidReflector = 2
    ∧ Status.code .duplicateLetter = 3 ∧ Status.code .invalidSymbol = 4
    ∧ Status.code .notConfigured = 5 ∧ Status.code .illegalCmd = 6 ∧ ∀ st, Status.code st ≠ 7)
    ∧ ∀ (i : Instr) (s t : State) (r : Response), WellFormed i → exec i s = .next t →
        t.responses = s.responses ++ [r] →
        (r.status = .invalidWiring → (∃ k src x, i = .ldrot k src x) ∨ ∃ src, i = .ldref src)
        ∧ (r.status = .invalidReflector → ∃ src, i = .ldref src)
        ∧ (r.status = .duplicateLetter → ∃ a b, i = .plswp a b)
        ∧ (r.status = .invalidSymbol → (∃ x, i = .proc x) ∨ (∃ k v, i = .setoff k v)
            ∨ (∃ v, i = .setall v) ∨ (∃ k src x, i = .ldrot k src x) ∨ (∃ a b, i = .plswp a b)
            ∨ ∃ stage k x, i = .probe stage k x)
        ∧ (r.status = .notConfigured → (∃ x, i = .proc x) ∨ (∃ k, i = .step k)
            ∨ (∃ stage k x, i = .probe stage k x) ∨ ∃ item k, i = .getcfg item k)
        ∧ r.status ≠ .illegalCmd

/-- R100: INVALID_SYMBOL exactly when a symbol field holds 26..31. -/
def Obligations.InvalidSymbolExactlyForNonLetters : Prop :=
  ∀ (i : Instr) (s : State), WellFormed i →
    (exec i s = .next (s.answering .invalidSymbol 0) ↔ BadSymbol i)

/-- R104, in the place R106 gives it: NOT_CONFIGURED exactly when the symbols are letters and the
configuration the command needs has not been loaded. -/
def Obligations.NotConfiguredExactlyForMissingLoads : Prop :=
  ∀ (i : Instr) (s : State), WellFormed i →
    (exec i s = .next (s.answering .notConfigured 0) ↔ ¬BadSymbol i ∧ Unconfigured s i)

/-- R101 and R102, in the order R106 gives them: what each table load answers for each table. -/
def Obligations.TableErrorsOfTheLoads : Prop :=
  (∀ (k : Slot) (src : Source) (t : Field5) (s : State), t.toNat ≤ 25 →
      (exec (.ldrot k src t) s = .next (s.answering .invalidWiring 0)
        ↔ ¬ValidWiring (rotorSource src)))
    ∧ ∀ (src : Source) (s : State), src ≠ .rom 2 ∨ s.given.refRom2 = true →
      (exec (.ldref src) s = .next (s.answering .invalidWiring 0)
        ↔ ¬ValidWiring (reflectorSource src))
      ∧ (exec (.ldref src) s = .next (s.answering .invalidReflector 0)
        ↔ ValidWiring (reflectorSource src) ∧ ¬SelfInverseWithoutFixedPoint (reflectorSource src))

/-- R103: DUPLICATE_LETTER when either letter is already in a pair or both are the same. -/
def Obligations.DuplicateLetterExactlyForReuse : Prop :=
  ∀ (a b : Letter) (s : State),
    exec (.plswp (letterBits a) (letterBits b)) s = .next (s.answering .duplicateLetter 0)
      ↔ s.pb.get a ≠ a ∨ s.pb.get b ≠ b ∨ a = b

/-- R58: a valid wiring and a turnover letter load slot k, in one update. -/
def Obligations.LdrotLoadsTheSlot : Prop :=
  ∀ (k : Slot) (src : Source) (t : Letter) (s : State), ValidWiring (rotorSource src) →
    ∃ r : Rotor, exec (.ldrot k src (letterBits t)) s =
        .next { s with rotor := s.rotor.set k (some r), responses := s.responses ++ [⟨.ok, 0⟩] }
      ∧ SameEntries r.fwd (rotorSource src) ∧ (∀ i, r.bwd.get (r.fwd.get i) = i) ∧ r.turn = t

/-- R59: a valid reflector is loaded, whatever its source, where the model has its content. -/
def Obligations.LdrefLoadsTheReflector : Prop :=
  ∀ (src : Source) (s : State), src ≠ .rom 2 ∨ s.given.refRom2 = true →
    ValidWiring (reflectorSource src) → SelfInverseWithoutFixedPoint (reflectorSource src) →
    ∃ t : Table, exec (.ldref src) s =
        .next { s with ref := some t, responses := s.responses ++ [⟨.ok, 0⟩] }
      ∧ SameEntries t (reflectorSource src) ∧ Involution t ∧ NoFixedPoint t

/-- R61: the ROM entries pass the checks, and REF_ROM_2 is still checked when it is given. -/
def Obligations.RomEntriesPassTheChecks : Prop :=
  (∀ k : Fin 3, ValidWiring (rotorSource (.rom k)))
    ∧ (∀ k : Fin 3, k ≠ 2 → ValidWiring (reflectorSource (.rom k))
        ∧ SelfInverseWithoutFixedPoint (reflectorSource (.rom k)))
    ∧ (∀ (s t : State) (r : Response), t.responses = s.responses ++ [r] →
        (∀ (j : Slot) (k : Fin 3) (x : Field5), exec (.ldrot j (.rom k) x) s = .next t →
          r.status ≠ .invalidWiring)
        ∧ ∀ k : Fin 3, k ≠ 2 → exec (.ldref (.rom k)) s = .next t →
          r.status ≠ .invalidWiring ∧ r.status ≠ .invalidReflector)
    ∧ ∀ s : State, s.given.refRom2 = true →
        (exec (.ldref (.rom 2)) s = .next (s.answering .invalidWiring 0)
          ↔ ¬ValidWiring Config.refRom2)
        ∧ (exec (.ldref (.rom 2)) s = .next (s.answering .invalidReflector 0)
          ↔ ValidWiring Config.refRom2 ∧ ¬SelfInverseWithoutFixedPoint Config.refRom2)

/-- What LDROT and LDREF leave unchanged (R58, R59, R62). -/
def Obligations.LoadFrame : Prop :=
  (∀ (k : Slot) (src : Source) (x : Field5) (s t : State), exec (.ldrot k src x) s = .next t →
      t.off = s.off ∧ t.dsEn = s.dsEn ∧ (∀ j, j ≠ k → t.rotor.get j = s.rotor.get j)
      ∧ t.ref = s.ref ∧ t.pb = s.pb ∧ OneResponse s t)
    ∧ ∀ (src : Source) (s t : State), exec (.ldref src) s = .next t →
      t.off = s.off ∧ t.dsEn = s.dsEn ∧ t.rotor = s.rotor ∧ t.pb = s.pb ∧ OneResponse s t

/-- R63: PLCLR sets the plugboard to the identity, from every state. -/
def Obligations.PlclrSetsTheIdentity : Prop :=
  ∀ s : State, ∃ t, exec .plclr s = .next t ∧ (∀ i, t.pb.get i = i)
    ∧ t = { s with pb := t.pb, responses := s.responses ++ [⟨.ok, 0⟩] }

/-- R64: PLSWP writes `PB[a] = b` and `PB[b] = a` for two unpaired letters, and nothing else. -/
def Obligations.PlswpAddsThePair : Prop :=
  ∀ (a b : Letter) (s : State), a ≠ b → s.pb.get a = a → s.pb.get b = b →
    ∃ t, exec (.plswp (letterBits a) (letterBits b)) s = .next t
      ∧ t.pb.get a = b ∧ t.pb.get b = a ∧ (∀ x, x ≠ a → x ≠ b → t.pb.get x = s.pb.get x)
      ∧ t = { s with pb := t.pb, responses := s.responses ++ [⟨.ok, 0⟩] }

/-- What PLCLR and PLSWP leave unchanged (R63, R64). -/
def Obligations.PlugboardFrame : Prop :=
  (∀ s t : State, exec .plclr s = .next t →
      t.off = s.off ∧ t.dsEn = s.dsEn ∧ t.rotor = s.rotor ∧ t.ref = s.ref ∧ OneResponse s t)
    ∧ ∀ (a b : Field5) (s t : State), exec (.plswp a b) s = .next t →
      t.off = s.off ∧ t.dsEn = s.dsEn ∧ t.rotor = s.rotor ∧ t.ref = s.ref ∧ OneResponse s t
      ∧ ∀ x : Letter, letterBits x ≠ a → letterBits x ≠ b → t.pb.get x = s.pb.get x

/-- R67: after PLCLR and successful PLSWP commands, the plugboard depends only on the set of pairs:
each pair's letters map to each other, and every other letter to itself. -/
def Obligations.PlugboardIsItsSetOfPairs : Prop :=
  ∀ (pairs : List (Letter × Letter)) (s t : State),
    execAll (.plclr :: pairs.map fun p => .plswp (letterBits p.1) (letterBits p.2)) s = .next t →
    t.responses = s.responses ++ List.replicate (pairs.length + 1) ⟨.ok, 0⟩ →
    (∀ p ∈ pairs, t.pb.get p.1 = p.2 ∧ t.pb.get p.2 = p.1)
      ∧ ∀ x, (∀ p ∈ pairs, x ≠ p.1 ∧ x ≠ p.2) → t.pb.get x = x

/-- R70, R71: one step of each slot is the simultaneous update, every test on the offsets before
the step. -/
def Obligations.StepIsTheSimultaneousUpdate : Prop :=
  ∀ (turn : PerSlot Letter) (off : Offsets),
    let c3 : Letter := if off.r3 = turn.r3 then 1 else 0
    let c32 : Letter := if off.r3 = turn.r3 ∧ off.r2 = turn.r2 then 1 else 0
    let c2 : Letter := if off.r2 = turn.r2 then 1 else 0
    stepSlot turn .r3 off = ⟨off.r1 + c32, off.r2 + c3, off.r3 + 1⟩
      ∧ stepSlot turn .r2 off = ⟨off.r1 + c2, off.r2 + 1, off.r3⟩
      ∧ stepSlot turn .r1 off = ⟨off.r1 + 1, off.r2, off.r3⟩

/-- R72: stepping wraps from Z to A, and wrapping is not a carry. -/
def Obligations.StepWrapsWithoutCarry : Prop :=
  ∀ (turn : PerSlot Letter) (off : Offsets) (k : Slot), off.get k = 25 →
    (stepSlot turn k off).get k = 0
      ∧ (turn.get k ≠ 25 → ∀ j, j ≠ k → (stepSlot turn k off).get j = off.get j)

/-- R73 under base stepping: TURN[1] has no effect on any command except GETCFG, and LDROT of slot 1,
which replaces it. Two engines that differ only in TURN[1] answer alike and stay alike. -/
def Obligations.SlowTurnoverHasNoEffect : Prop :=
  ∀ (i : Instr) (s t : State) (r : Rotor) (x : Letter), s.BaseStepping →
    s.rotor.r1 = some r → (∀ k, i ≠ .getcfg .turn k) → exec i s = .next t →
    ∃ t', exec i { s with rotor := { s.rotor with r1 := some { r with turn := x } } } = .next t'
      ∧ t'.responses = t.responses ∧ t'.off = t.off ∧ t'.dsEn = t.dsEn ∧ t'.ref = t.ref
      ∧ t'.pb = t.pb ∧ t'.given = t.given ∧ t'.inbox = t.inbox
      ∧ t'.rotor.r2 = t.rotor.r2 ∧ t'.rotor.r3 = t.rotor.r3
      ∧ t'.rotor.r1.map Rotor.fwd = t.rotor.r1.map Rotor.fwd
      ∧ t'.rotor.r1.map Rotor.bwd = t.rotor.r1.map Rotor.bwd

/-- R74: a step of slot k moves only slot k and the slower slots, each by 0 or 1, and a step of slot
3 moves slot 2 exactly when `OFF[3] = TURN[3]`. -/
def Obligations.StepMovesEachSlotByAtMostOne : Prop :=
  ∀ (turn : PerSlot Letter) (off : Offsets) (k : Slot),
    (∀ j, (stepSlot turn k off).get j = off.get j
        ∨ (stepSlot turn k off).get j = off.get j + 1)
    ∧ (stepSlot turn .r1 off).r2 = off.r2 ∧ (stepSlot turn .r1 off).r3 = off.r3
    ∧ (stepSlot turn .r2 off).r3 = off.r3
    ∧ ((stepSlot turn .r3 off).r2 = off.r2 + 1 ↔ off.r3 = turn.r3)

/-- R75: from any start, the offsets return to the start after exactly 17576 steps of slot 3 and not
sooner. -/
def Obligations.SteppingHasPeriod17576 : Prop :=
  ∀ (turn : PerSlot Letter) (off : Offsets),
    stepsFrom3 turn 17576 off = off
      ∧ ∀ n, 0 < n → n < 17576 → stepsFrom3 turn n off ≠ off

/-- R75: from any start, slot 2 advances exactly once in 26 steps of slot 3 and slot 1 exactly once
in 676, and slot 3 is back after 26. -/
def Obligations.SlowerSlotsAdvanceOncePerRound : Prop :=
  ∀ (turn : PerSlot Letter) (off : Offsets),
    (stepsFrom3 turn 26 off).r3 = off.r3
      ∧ (stepsFrom3 turn 26 off).r2 = off.r2 + 1
      ∧ (stepsFrom3 turn 676 off).r1 = off.r1 + 1
      ∧ (stepsFrom3 turn 676 off).r2 = off.r2 ∧ (stepsFrom3 turn 676 off).r3 = off.r3

/-- R79: STEP under base stepping advances the slot with carry and answers its new offset. -/
def Obligations.StepAdvancesTheSlot : Prop :=
  ∀ (s : State) (a b c : Rotor), s.rotor = ⟨some a, some b, some c⟩ → s.BaseStepping →
    let c3 : Letter := if s.off.r3 = c.turn then 1 else 0
    let c32 : Letter := if s.off.r3 = c.turn ∧ s.off.r2 = b.turn then 1 else 0
    let c2 : Letter := if s.off.r2 = b.turn then 1 else 0
    exec (.step .r3) s = .next { s with
        off := ⟨s.off.r1 + c32, s.off.r2 + c3, s.off.r3 + 1⟩,
        responses := s.responses ++ [⟨.ok, letterBits (s.off.r3 + 1)⟩] }
    ∧ exec (.step .r2) s = .next { s with
        off := ⟨s.off.r1 + c2, s.off.r2 + 1, s.off.r3⟩,
        responses := s.responses ++ [⟨.ok, letterBits (s.off.r2 + 1)⟩] }
    ∧ exec (.step .r1) s = .next { s with
        off := ⟨s.off.r1 + 1, s.off.r2, s.off.r3⟩,
        responses := s.responses ++ [⟨.ok, letterBits (s.off.r1 + 1)⟩] }

/-- R78: while any DS_EN bit is 1, STEP and PROC use DS_STEP_RULE, whatever it is, in place of the
base stepping. STEP needs the three rotors alone (R79), and PROC the reflector too (R85). The rule is
a free value (log entry 3), and nothing here rests on it. -/
def Obligations.DoubleStepUsesTheOpenRule : Prop :=
  (∀ (s : State) (rs : PerSlot Rotor) (k j : Slot),
    s.rotor = ⟨some rs.r1, some rs.r2, some rs.r3⟩ → s.dsEn.get k = true →
    s.given.dsStepRule = true →
    exec (.step j) s =
      let off := Config.dsStepRule s.off ⟨rs.r1.turn, rs.r2.turn, rs.r3.turn⟩ s.dsEn j
      .next { s with off := off, responses := s.responses ++ [⟨.ok, letterBits (off.get j)⟩] })
  ∧ ∀ (s : State) (rs : PerSlot Rotor) (ref : Table) (k : Slot) (x : Letter),
    s.Loaded rs ref → s.dsEn.get k = true → s.given.dsStepRule = true →
    exec (.proc (letterBits x)) s =
      let off := Config.dsStepRule s.off ⟨rs.r1.turn, rs.r2.turn, rs.r3.turn⟩ s.dsEn .r3
      .next { s with
        off := off, responses := s.responses ++ [⟨.ok, letterBits (path rs ref s.pb off x)⟩] }

/-- R80: SETOFF writes the one offset, with no carry. -/
def Obligations.SetoffWritesOneOffset : Prop :=
  ∀ (k : Slot) (v : Letter) (s : State),
    ∃ off : Offsets, exec (.setoff k (letterBits v)) s =
        .next { s with off := off, responses := s.responses ++ [⟨.ok, 0⟩] }
      ∧ off.get k = v ∧ ∀ j, j ≠ k → off.get j = s.off.get j

/-- R81: GETOFF answers the slot's offset and writes nothing. -/
def Obligations.GetoffReadsTheOffset : Prop :=
  ∀ (k : Slot) (s : State),
    exec (.getoff k) s = .next (s.answering .ok (letterBits (s.off.get k)))

/-- R82: SETALL writes all three offsets. -/
def Obligations.SetallWritesAllOffsets : Prop :=
  ∀ (v : Letter) (s : State), exec (.setall (letterBits v)) s =
    .next { s with off := ⟨v, v, v⟩, responses := s.responses ++ [⟨.ok, 0⟩] }

/-- R83: SETDS writes the one double-step enable. -/
def Obligations.SetdsWritesOneEnable : Prop :=
  ∀ (k : Slot) (en : Bool) (s : State),
    ∃ ds : PerSlot Bool, exec (.setds k en) s =
        .next { s with dsEn := ds, responses := s.responses ++ [⟨.ok, 0⟩] }
      ∧ ds.get k = en ∧ ∀ j, j ≠ k → ds.get j = s.dsEn.get j

/-- What STEP, SETOFF, GETOFF, SETALL and SETDS leave unchanged (R79 to R83). -/
def Obligations.RotorShifterFrame : Prop :=
  ∀ (i : Instr) (s t : State),
    ((∃ k, i = .step k) ∨ (∃ k v, i = .setoff k v) ∨ (∃ k, i = .getoff k) ∨ (∃ v, i = .setall v)
      ∨ ∃ k en, i = .setds k en) → exec i s = .next t →
    t.rotor = s.rotor ∧ t.ref = s.ref ∧ t.pb = s.pb ∧ OneResponse s t
      ∧ ((∀ k en, i ≠ .setds k en) → t.dsEn = s.dsEn)
      ∧ (∀ k en, i = .setds k en → t.off = s.off ∧ ∀ j, j ≠ k → t.dsEn.get j = s.dsEn.get j)
      ∧ (∀ k v, i = .setoff k v → ∀ j, j ≠ k → t.off.get j = s.off.get j)
      ∧ (∀ k, i = .getoff k → t.off = s.off)
      ∧ (s.BaseStepping → i = .step .r1 → t.off.r2 = s.off.r2 ∧ t.off.r3 = s.off.r3)
      ∧ (s.BaseStepping → i = .step .r2 → t.off.r3 = s.off.r3)

/-- R84: no command other than STEP, PROC, SETOFF and SETALL writes an offset. -/
def Obligations.OnlyFourCommandsWriteOffsets : Prop :=
  ∀ (i : Instr) (s t : State), exec i s = .next t → t.off ≠ s.off →
    (∃ k, i = .step k) ∨ (∃ x, i = .proc x) ∨ (∃ k v, i = .setoff k v) ∨ ∃ v, i = .setall v

/-- R85, R86, R87 under base stepping: PROC steps slot 3 with carry, then answers the nine lookups of
the path at the stepped offsets. -/
def Obligations.ProcStepsThenSubstitutes : Prop :=
  ∀ (s : State) (rs : PerSlot Rotor) (ref : Table) (x : Letter),
    s.Loaded rs ref → s.BaseStepping →
    let o3 := s.off.r3 + 1
    let o2 := s.off.r2 + (if s.off.r3 = rs.r3.turn then 1 else 0)
    let o1 := s.off.r1 + (if s.off.r3 = rs.r3.turn ∧ s.off.r2 = rs.r2.turn then 1 else 0)
    let y1 := s.pb.get x
    let y2 := rs.r3.fwd.get (y1 + o3) - o3
    let y3 := rs.r2.fwd.get (y2 + o2) - o2
    let y4 := rs.r1.fwd.get (y3 + o1) - o1
    let y5 := ref.get y4
    let y6 := rs.r1.bwd.get (y5 + o1) - o1
    let y7 := rs.r2.bwd.get (y6 + o2) - o2
    let y8 := rs.r3.bwd.get (y7 + o3) - o3
    let y9 := s.pb.get y8
    exec (.proc (letterBits x)) s = .next { s with
      off := ⟨o1, o2, o3⟩, responses := s.responses ++ [⟨.ok, letterBits y9⟩] }

/-- R88: with all four valid bits 1 and every DS_EN 0, PROC answers OK with a symbol for every
input 0..25. -/
def Obligations.AssembledEngineCannotFail : Prop :=
  ∀ (s : State) (x : Field5), (∀ k, s.rotValid k = true) → s.refValid = true → s.BaseStepping →
    x.toNat ≤ 25 →
    ∃ t r, exec (.proc x) s = .next t ∧ t.responses = s.responses ++ [r] ∧ r.status = .ok
      ∧ r.result.toNat ≤ 25

/-- R77: the reverse flow undoes the flow, and the flow the reverse flow, at every offset. -/
def Obligations.FlowAndReverseFlowAreInverse : Prop :=
  ∀ (r : Rotor) (o x : Letter), r.Good →
    rflow r o x = r.bwd.get (x + o) - o ∧ rflow r o (flow r o x) = x ∧ flow r o (rflow r o x) = x

/-- R89, R91: in a good state the path at any fixed position is an involution without a fixed
point. -/
def Obligations.PathIsAFixedPointFreeInvolution : Prop :=
  ∀ (s : State) (rs : PerSlot Rotor) (ref : Table) (off : Offsets) (x : Letter),
    s.Good → s.Loaded rs ref →
    path rs ref s.pb off (path rs ref s.pb off x) = x ∧ path rs ref s.pb off x ≠ x

/-- R91: PROC never returns its own input, with any stepping rule. -/
def Obligations.ProcNeverReturnsItsInput : Prop :=
  ∀ (s t : State) (x : Letter) (y : Field5), s.Good → exec (.proc (letterBits x)) s = .next t →
    t.responses = s.responses ++ [⟨.ok, y⟩] → y ≠ letterBits x

/-- R90: the engine is reciprocal. PROC commands from a position give as many letters as they were
given, and those letters, from the same position and configuration, give back the first. It holds
under base stepping and under any DS_STEP_RULE, because stepping does not depend on the input. -/
def Obligations.EngineIsReciprocal : Prop :=
  ∀ (s : State) (rs : PerSlot Rotor) (ref : Table) (xs : List Letter),
    s.Good → s.Loaded rs ref → s.BaseStepping ∨ s.given.dsStepRule = true → s.inbox = [] →
    ∃ (ys : List Letter) (t : State),
      runCommands s (procCommands xs) = .next t ∧ t.responses = s.responses ++ okLetters ys
      ∧ ys.length = xs.length
      ∧ ∀ u : State, s.SameEngine u → u.inbox = [] →
          ∃ v, runCommands u (procCommands ys) = .next v
            ∧ v.responses = u.responses ++ okLetters xs

/-- R94: the response and the next engine state depend on nothing but the engine state and the
command: not on what the host has yet to present or has received. -/
def Obligations.OutputDependsOnlyOnEngineAndCommand : Prop :=
  ∀ (i : Instr) (s u t : State), s.SameEngine u → exec i s = .next t →
    ∃ v r, exec i u = .next v ∧ t.SameEngine v
      ∧ t.responses = s.responses ++ [r] ∧ v.responses = u.responses ++ [r]

/-- R95: what each PROBE stage answers at the current offsets, without stepping, each under what its
row needs and no more: PB nothing, the four rotor stages the rotor of their slot, REF the
reflector. -/
def Obligations.ProbeEvaluatesOneStage : Prop :=
  (∀ (s : State) (x : Letter),
    exec (.probe .pb none (letterBits x)) s = .next (s.answering .ok (letterBits (s.pb.get x))))
  ∧ (∀ (s : State) (k : Slot) (r : Rotor) (x : Letter), s.rotor.get k = some r →
    exec (.probe .flow (some k) (letterBits x)) s = .next (s.answering .ok
        (letterBits (r.fwd.get (x + s.off.get k) - s.off.get k)))
    ∧ exec (.probe .rflow (some k) (letterBits x)) s = .next (s.answering .ok
        (letterBits (r.bwd.get (x + s.off.get k) - s.off.get k)))
    ∧ exec (.probe .fwd (some k) (letterBits x)) s =
        .next (s.answering .ok (letterBits (r.fwd.get x)))
    ∧ exec (.probe .bwd (some k) (letterBits x)) s =
        .next (s.answering .ok (letterBits (r.bwd.get x))))
  ∧ ∀ (s : State) (t : Table) (x : Letter), s.ref = some t →
    exec (.probe .ref none (letterBits x)) s = .next (s.answering .ok (letterBits (t.get x)))

/-- R95: the plugboard stage needs no configuration. That a PROBE with a slot that does not fit its
stage answers ILLEGAL_CMD before anything else is the model's choice (log entry 9, DEDUCED): no word
encodes such a command, so the decoder never yields it and the spec gives it no meaning. -/
def Obligations.ProbeOfThePlugboardAndMisfitSlots : Prop :=
  (∀ (s : State) (x : Letter),
    exec (.probe .pb none (letterBits x)) s = .next (s.answering .ok (letterBits (s.pb.get x))))
  ∧ ∀ (s : State) (stage : Stage) (k : Option Slot) (x : Field5),
      k.isSome ≠ stage.namesSlot → exec (.probe stage k x) s = .next (s.answering .illegalCmd 0)

/-- R97: what each GETCFG item answers. -/
def Obligations.GetcfgReadsOneRegister : Prop :=
  (∀ (s : State) (k : Slot) (r : Rotor), s.rotor.get k = some r →
      exec (.getcfg .turn (some k)) s = .next (s.answering .ok (letterBits r.turn)))
    ∧ (∀ (s : State) (k : Slot), s.rotor.get k = none →
      exec (.getcfg .turn (some k)) s = .next (s.answering .notConfigured 0))
    ∧ ∀ (s : State) (k : Slot),
      exec (.getcfg .ds (some k)) s =
        .next (s.answering .ok (if s.dsEn.get k then 1 else 0))
      ∧ exec (.getcfg .valid none) s = .next (s.answering .ok
          (BitVec.ofNat 5 ((if s.refValid then 8 else 0) + (if s.rotValid .r3 then 4 else 0)
            + (if s.rotValid .r2 then 2 else 0) + (if s.rotValid .r1 then 1 else 0))))

/-- R40: no read has a side effect, so repeating one gives the same response; PROC and STEP are not
idempotent, because each advances an offset (under base stepping: of DS_STEP_RULE nothing is
known). -/
def Obligations.ReadsHaveNoSideEffect : Prop :=
  (∀ (i : Instr) (s t : State) (y : Field5), s.BaseStepping →
    ((∃ k, i = .step k) ∨ ∃ x, i = .proc x) → exec i s = .next t →
    t.responses = s.responses ++ [⟨.ok, y⟩] → t.off ≠ s.off)
  ∧ ∀ (i : Instr) (s t : State),
    ((∃ k, i = .getoff k) ∨ (∃ item k, i = .getcfg item k) ∨ ∃ stage k x, i = .probe stage k x) →
    exec i s = .next t →
    ∃ r, t = { s with responses := s.responses ++ [r] }
      ∧ exec i t = .next { t with responses := t.responses ++ [r] }

/-- What PROC leaves unchanged (R85). PROBE and GETCFG leave everything (R95, R97). -/
def Obligations.EngineCommandFrame : Prop :=
  (∀ (x : Field5) (s t : State), exec (.proc x) s = .next t →
      t.dsEn = s.dsEn ∧ t.rotor = s.rotor ∧ t.ref = s.ref ∧ t.pb = s.pb ∧ OneResponse s t)
    ∧ ∀ (i : Instr) (s t : State),
      ((∃ stage k x, i = .probe stage k x) ∨ ∃ item k, i = .getcfg item k) → exec i s = .next t →
      s.SameEngine t ∧ OneResponse s t

/-- R96: after STEP r3, the nine PROBE stages of the path, each on the symbol the one before
answered, reproduce the result of the PROC that would have been issued instead, under base stepping
and under any DS_STEP_RULE. -/
def Obligations.ProbesRecomputeProc : Prop :=
  ∀ (s : State) (rs : PerSlot Rotor) (ref : Table) (x : Letter),
    s.Loaded rs ref → s.BaseStepping ∨ s.given.dsStepRule = true →
    ∃ t p, exec (.step .r3) s = .next t ∧ exec (.proc (letterBits x)) s = .next p
      ∧ ∃ y1 y2 y3 y4 y5 y6 y7 y8 y9 : Letter,
        exec (.probe .pb none (letterBits x)) t = .next (t.answering .ok (letterBits y1))
        ∧ exec (.probe .flow (some .r3) (letterBits y1)) t = .next (t.answering .ok (letterBits y2))
        ∧ exec (.probe .flow (some .r2) (letterBits y2)) t = .next (t.answering .ok (letterBits y3))
        ∧ exec (.probe .flow (some .r1) (letterBits y3)) t = .next (t.answering .ok (letterBits y4))
        ∧ exec (.probe .ref none (letterBits y4)) t = .next (t.answering .ok (letterBits y5))
        ∧ exec (.probe .rflow (some .r1) (letterBits y5)) t
            = .next (t.answering .ok (letterBits y6))
        ∧ exec (.probe .rflow (some .r2) (letterBits y6)) t
            = .next (t.answering .ok (letterBits y7))
        ∧ exec (.probe .rflow (some .r3) (letterBits y7)) t
            = .next (t.answering .ok (letterBits y8))
        ∧ exec (.probe .pb none (letterBits y8)) t = .next (t.answering .ok (letterBits y9))
        ∧ p.responses = s.responses ++ [⟨.ok, letterBits y9⟩]
end

