-- ==== Sys2Proof/Laws/Decode.lean ====
section
/-! SUPPORT. The command word by its four fields: every word is the word of its fields, a row's mask
acts field by field, and the fields are read back as they were written. -/

namespace Sys2Proof

theorem wordOf_eq (op : BitVec 4) (slot : BitVec 2) (fa fb : Field5) :
    wordOf op slot fa fb = op ++ slot ++ fa ++ fb := rfl

/-- The bits of a word, by the field they lie in. -/
theorem wordOf_getLsbD (op : BitVec 4) (slot : BitVec 2) (fa fb : Field5) (i : Nat) :
    (wordOf op slot fa fb).getLsbD i =
      if i < 5 then fb.getLsbD i else if i < 10 then fa.getLsbD (i - 5)
      else if i < 12 then slot.getLsbD (i - 10) else op.getLsbD (i - 12) := by
  have h := BitVec.getLsbD_append (x := op ++ slot ++ fa) (y := fb) (i := i)
  have h2 := BitVec.getLsbD_append (x := op ++ slot) (y := fa) (i := i - 5)
  have h3 := BitVec.getLsbD_append (x := op) (y := slot) (i := i - 5 - 5)
  rw [h2, h3] at h
  refine h.trans ?_
  by_cases h5 : i < 5
  · rw [if_pos h5, if_pos h5]
  by_cases h10 : i < 10
  · rw [if_neg h5, if_neg h5, if_pos (show i - 5 < 5 by omega), if_pos h10]
  by_cases h12 : i < 12
  · rw [if_neg h5, if_neg h5, if_neg (show ¬i - 5 < 5 by omega), if_neg h10,
      if_pos (show i - 5 - 5 < 2 by omega), if_pos h12, Nat.sub_sub]
  · rw [if_neg h5, if_neg h5, if_neg (show ¬i - 5 < 5 by omega), if_neg h10,
      if_neg (show ¬i - 5 - 5 < 2 by omega), if_neg h12, Nat.sub_sub, Nat.sub_sub]

/-- Reading the fields of a word gives the fields it was made of. -/
@[simp] theorem fieldsOf_wordOf (op : BitVec 4) (slot : BitVec 2) (fa fb : Field5) :
    fieldsOf (wordOf op slot fa fb) = ⟨op, slot, fa, fb⟩ := by
  simp only [fieldsOf, Fields.mk.injEq]
  refine ⟨?_, ?_, ?_, ?_⟩ <;> apply BitVec.eq_of_getLsbD_eq <;> intro i hi <;>
    simp only [BitVec.getLsbD_extractLsb', wordOf_getLsbD, hi, decide_true, Bool.true_and]
  · rw [if_neg (by omega), if_neg (by omega), if_neg (by omega), Nat.add_sub_cancel_left]
  · rw [if_neg (by omega), if_neg (by omega), if_pos (by omega), Nat.add_sub_cancel_left]
  · rw [if_neg (by omega), if_pos (by omega), Nat.add_sub_cancel_left]
  · rw [if_pos (by omega), Nat.zero_add]

/-- A word is determined by its fields, so `wordOf` forgets nothing. -/
theorem wordOf_injective {op op' : BitVec 4} {slot slot' : BitVec 2} {fa fa' fb fb' : Field5} :
    wordOf op slot fa fb = wordOf op' slot' fa' fb' ↔
      op = op' ∧ slot = slot' ∧ fa = fa' ∧ fb = fb' := by
  constructor
  · intro h
    have h' := congrArg fieldsOf h
    simpa using h'
  · rintro ⟨rfl, rfl, rfl, rfl⟩
    rfl

/-- Every command word is the word of its fields. -/
theorem wordOf_fieldsOf (cw : CommandWord) :
    wordOf (fieldsOf cw).op (fieldsOf cw).slot (fieldsOf cw).fa (fieldsOf cw).fb = cw := by
  apply BitVec.eq_of_getLsbD_eq
  intro i hi
  simp only [wordOf_getLsbD, fieldsOf, BitVec.getLsbD_extractLsb']
  split_ifs with h5 h10 h12
  · simp [h5]
  · simp [show i - 5 < 5 by omega, show 5 + (i - 5) = i by omega]
  · simp [show i - 10 < 2 by omega, show 10 + (i - 10) = i by omega]
  · simp [show i - 12 < 4 by omega, show 12 + (i - 12) = i by omega]

/-- A mask acts field by field. -/
theorem wordOf_and (op op' : BitVec 4) (slot slot' : BitVec 2) (fa fa' fb fb' : Field5) :
    wordOf op slot fa fb &&& wordOf op' slot' fa' fb'
      = wordOf (op &&& op') (slot &&& slot') (fa &&& fa') (fb &&& fb') := by
  apply BitVec.eq_of_getLsbD_eq
  intro i _
  simp only [BitVec.getLsbD_and, wordOf_getLsbD]
  split_ifs <;> rfl

/-- A word matches a row, given the row's mask and code by their fields, when its fields do. -/
theorem wordOf_matches {code mask : CommandWord} {op op' mo : BitVec 4} {slot slot' ms : BitVec 2}
    {fa fa' ma fb fb' mb : Field5} (hc : code = wordOf op' slot' fa' fb')
    (hm : mask = wordOf mo ms ma mb) :
    wordOf op slot fa fb &&& mask = code ↔
      op &&& mo = op' ∧ slot &&& ms = slot' ∧ fa &&& ma = fa' ∧ fb &&& mb = fb' := by
  rw [hc, hm, wordOf_and, wordOf_injective]

end Sys2Proof
end

