-- ==== Sys2Proof/Laws/State.lean ====
section
/-! SUPPORT. What each named update of a state does to each field, true by rfl; and what getting and
setting one slot's value do. -/

namespace Sys2Proof

variable {α β : Type}

@[simp] theorem PerSlot.get_set_self (p : PerSlot α) (k : Slot) (a : α) :
    (p.set k a).get k = a := by cases k <;> rfl

theorem PerSlot.get_set_ne (p : PerSlot α) {j k : Slot} (a : α) (h : j ≠ k) :
    (p.set k a).get j = p.get j := by cases k <;> cases j <;> first | rfl | exact absurd rfl h

@[simp] theorem PerSlot.get_same (a : α) (k : Slot) : (PerSlot.same a).get k = a := by
  cases k <;> rfl

@[simp] theorem PerSlot.get_map (f : α → β) (p : PerSlot α) (k : Slot) :
    (p.map f).get k = f (p.get k) := by cases k <;> rfl

theorem PerSlot.ext_get {p q : PerSlot α} (h : ∀ k, p.get k = q.get k) : p = q := by
  obtain ⟨a, b, c⟩ := p
  obtain ⟨d, e, f⟩ := q
  have h1 : a = d := h .r1
  have h2 : b = e := h .r2
  have h3 : c = f := h .r3
  rw [h1, h2, h3]

namespace Machine

variable (s : State) (k : Slot) (o : Letter) (os : Offsets) (en : Bool) (r : Rotor) (t : Table)
  (rsp : Response) (x : HostInput) (xs : List HostInput)

@[simp] theorem setOff_off : (s.setOff k o).off = s.off.set k o := rfl
@[simp] theorem setOff_dsEn : (s.setOff k o).dsEn = s.dsEn := rfl
@[simp] theorem setOff_rotor : (s.setOff k o).rotor = s.rotor := rfl
@[simp] theorem setOff_ref : (s.setOff k o).ref = s.ref := rfl
@[simp] theorem setOff_pb : (s.setOff k o).pb = s.pb := rfl
@[simp] theorem setOff_given : (s.setOff k o).given = s.given := rfl
@[simp] theorem setOff_inbox : (s.setOff k o).inbox = s.inbox := rfl
@[simp] theorem setOff_responses : (s.setOff k o).responses = s.responses := rfl

@[simp] theorem setOffsets_off : (s.setOffsets os).off = os := rfl
@[simp] theorem setOffsets_dsEn : (s.setOffsets os).dsEn = s.dsEn := rfl
@[simp] theorem setOffsets_rotor : (s.setOffsets os).rotor = s.rotor := rfl
@[simp] theorem setOffsets_ref : (s.setOffsets os).ref = s.ref := rfl
@[simp] theorem setOffsets_pb : (s.setOffsets os).pb = s.pb := rfl
@[simp] theorem setOffsets_given : (s.setOffsets os).given = s.given := rfl
@[simp] theorem setOffsets_inbox : (s.setOffsets os).inbox = s.inbox := rfl
@[simp] theorem setOffsets_responses : (s.setOffsets os).responses = s.responses := rfl

@[simp] theorem setDs_off : (s.setDs k en).off = s.off := rfl
@[simp] theorem setDs_dsEn : (s.setDs k en).dsEn = s.dsEn.set k en := rfl
@[simp] theorem setDs_rotor : (s.setDs k en).rotor = s.rotor := rfl
@[simp] theorem setDs_ref : (s.setDs k en).ref = s.ref := rfl
@[simp] theorem setDs_pb : (s.setDs k en).pb = s.pb := rfl
@[simp] theorem setDs_given : (s.setDs k en).given = s.given := rfl
@[simp] theorem setDs_inbox : (s.setDs k en).inbox = s.inbox := rfl
@[simp] theorem setDs_responses : (s.setDs k en).responses = s.responses := rfl

@[simp] theorem loadRotor_off : (s.loadRotor k r).off = s.off := rfl
@[simp] theorem loadRotor_dsEn : (s.loadRotor k r).dsEn = s.dsEn := rfl
@[simp] theorem loadRotor_rotor : (s.loadRotor k r).rotor = s.rotor.set k (some r) := rfl
@[simp] theorem loadRotor_ref : (s.loadRotor k r).ref = s.ref := rfl
@[simp] theorem loadRotor_pb : (s.loadRotor k r).pb = s.pb := rfl
@[simp] theorem loadRotor_given : (s.loadRotor k r).given = s.given := rfl
@[simp] theorem loadRotor_inbox : (s.loadRotor k r).inbox = s.inbox := rfl
@[simp] theorem loadRotor_responses : (s.loadRotor k r).responses = s.responses := rfl

@[simp] theorem loadRef_off : (s.loadRef t).off = s.off := rfl
@[simp] theorem loadRef_dsEn : (s.loadRef t).dsEn = s.dsEn := rfl
@[simp] theorem loadRef_rotor : (s.loadRef t).rotor = s.rotor := rfl
@[simp] theorem loadRef_ref : (s.loadRef t).ref = some t := rfl
@[simp] theorem loadRef_pb : (s.loadRef t).pb = s.pb := rfl
@[simp] theorem loadRef_given : (s.loadRef t).given = s.given := rfl
@[simp] theorem loadRef_inbox : (s.loadRef t).inbox = s.inbox := rfl
@[simp] theorem loadRef_responses : (s.loadRef t).responses = s.responses := rfl

@[simp] theorem setPb_off : (s.setPb t).off = s.off := rfl
@[simp] theorem setPb_dsEn : (s.setPb t).dsEn = s.dsEn := rfl
@[simp] theorem setPb_rotor : (s.setPb t).rotor = s.rotor := rfl
@[simp] theorem setPb_ref : (s.setPb t).ref = s.ref := rfl
@[simp] theorem setPb_pb : (s.setPb t).pb = t := rfl
@[simp] theorem setPb_given : (s.setPb t).given = s.given := rfl
@[simp] theorem setPb_inbox : (s.setPb t).inbox = s.inbox := rfl
@[simp] theorem setPb_responses : (s.setPb t).responses = s.responses := rfl

@[simp] theorem deliver_off : (s.deliver rsp).off = s.off := rfl
@[simp] theorem deliver_dsEn : (s.deliver rsp).dsEn = s.dsEn := rfl
@[simp] theorem deliver_rotor : (s.deliver rsp).rotor = s.rotor := rfl
@[simp] theorem deliver_ref : (s.deliver rsp).ref = s.ref := rfl
@[simp] theorem deliver_pb : (s.deliver rsp).pb = s.pb := rfl
@[simp] theorem deliver_given : (s.deliver rsp).given = s.given := rfl
@[simp] theorem deliver_inbox : (s.deliver rsp).inbox = s.inbox := rfl
@[simp] theorem deliver_responses : (s.deliver rsp).responses = s.responses ++ [rsp] := rfl

@[simp] theorem presentNext_inbox : (s.presentNext x).inbox = x :: s.inbox := rfl
@[simp] theorem present_inbox : (s.present xs).inbox = s.inbox ++ xs := rfl
@[simp] theorem takeInput_presentNext : takeInput (s.presentNext x) = some (x, s) := rfl

theorem takeInput_nil {s : State} (h : s.inbox = []) : takeInput s = none := by
  simp [takeInput, h]

theorem takeInput_cons {s : State} {x : HostInput} {rest : List HostInput}
    (h : s.inbox = x :: rest) : takeInput s = some (x, { s with inbox := rest }) := by
  simp [takeInput, h]

end Machine

end Sys2Proof
end

