-- ==== Sys2Proof/Laws/Tables.lean ====
section
/-! SUPPORT. What symbol operands, tables, the inverse and the exchange of two images are, said once
each. -/

namespace Sys2Proof

/-- An entry of a table built from a function is the function's value. -/
@[simp] theorem get_ofFn {α : Type} (f : Fin 26 → α) (i : Fin 26) :
    (Vector.ofFn f).get i = f i :=
  Vector.getElem_ofFn i.isLt

/-- The entries after one is replaced. -/
theorem get_set {α : Type} (t : Vector α 26) (a x : Fin 26) (v : α) :
    (t.set a v).get x = if x = a then v else t.get x := by
  have h := Vector.getElem_set (xs := t) (i := a.val) (x := v) (hi := a.isLt) (j := x.val) (hj := x.isLt)
  simp only [Fin.ext_iff, eq_comm (a := x.val)]
  exact h

@[simp] theorem Table.identity_get (i : Letter) : Table.identity.get i = i := get_ofFn _ i

theorem Table.ext_get {t u : Table} (h : ∀ i : Letter, t.get i = u.get i) : t = u :=
  Vector.ext fun i hi => h ⟨i, hi⟩

namespace Machine

@[simp] theorem letter?_letterBits (x : Letter) : letter? (letterBits x) = some x := by
  revert x; decide

theorem letterBits_toNat (x : Letter) : (letterBits x).toNat = x.val := by
  revert x; decide

theorem letterBits_injective {x y : Letter} (h : letterBits x = letterBits y) : x = y := by
  have h' := congrArg letter? h
  simpa using h'

theorem letter?_eq_none {b : Field5} : letter? b = none ↔ 25 < b.toNat := by
  unfold letter?; split <;> simp <;> omega

theorem letter?_eq_some {b : Field5} {x : Letter} : letter? b = some x ↔ b = letterBits x := by
  revert b x; decide

theorem letter?_isSome_of_le {b : Field5} (h : b.toNat ≤ 25) : ∃ x, letter? b = some x := by
  unfold letter?; split
  · exact ⟨_, rfl⟩
  · omega

theorem payloadTable_get (tbl : Payload) (i : Letter) :
    (payloadTable tbl).get i = tblEntry tbl i := get_ofFn _ i

theorem isPerm_iff (t : RawTable) : isPerm t = true ↔ ValidWiring t := by
  simp only [isPerm, Bool.and_eq_true, decide_eq_true_eq, ValidWiring]

theorem symbolsOf_get (t : RawTable) (i : Letter) :
    (symbolsOf t).get i = Fin.ofNat 26 (t.get i).toNat := get_ofFn _ i

/-- Where the entries are at most 25, the table of symbols has the same entries. -/
theorem symbolsOf_sameEntries {t : RawTable} (h : ∀ i : Letter, (t.get i).toNat ≤ 25) :
    SameEntries (symbolsOf t) t := by
  intro i
  rw [symbolsOf_get]
  exact Nat.mod_eq_of_lt (by have := h i; omega)

theorem wiring?_eq_some {t : RawTable} {u : Table} :
    wiring? t = some u ↔ ValidWiring t ∧ u = symbolsOf t := by
  unfold wiring?
  split <;> rename_i h <;> rw [isPerm_iff] at h <;> simp [h, eq_comm]

theorem wiring?_eq_none {t : RawTable} : wiring? t = none ↔ ¬ValidWiring t := by
  unfold wiring?
  split <;> rename_i h <;> rw [isPerm_iff] at h <;> simp [h]

/-- A valid wiring sends different letters to different letters. -/
theorem symbolsOf_injective {t : RawTable} (h : ValidWiring t) {i j : Letter}
    (e : (symbolsOf t).get i = (symbolsOf t).get j) : i = j := by
  by_contra hne
  apply h.2 i j hne
  apply BitVec.eq_of_toNat_eq
  rw [← symbolsOf_sameEntries h.1 i, ← symbolsOf_sameEntries h.1 j, e]

theorem inverse_get (t : Table) (y : Letter) :
    (inverse t).get y = ((List.finRange 26).find? fun x => t.get x = y).getD 0 := get_ofFn _ y

/-- The inverse of a table that hits y maps y to a letter the table sends to y. -/
theorem get_inverse {t : Table} {y : Letter} (h : ∃ x, t.get x = y) :
    t.get ((inverse t).get y) = y := by
  rw [inverse_get]
  cases hf : (List.finRange 26).find? fun x => t.get x = y with
  | none =>
    obtain ⟨x, hx⟩ := h
    exact absurd hx (by simpa using List.find?_eq_none.mp hf x (List.mem_finRange x))
  | some x => simpa using List.find?_some hf

/-- What LDROT stores is good: `FWD` and `BWD` are mutual bijections. -/
theorem rotorOf_good {t : RawTable} (h : ValidWiring t) (turn : Letter) :
    (rotorOf (symbolsOf t) turn).Good := by
  have inj : Function.Injective fun x : Letter => (symbolsOf t).get x :=
    fun _ _ e => symbolsOf_injective h e
  have surj : ∀ y, ∃ x, (symbolsOf t).get x = y := (Finite.injective_iff_surjective.mp inj)
  exact ⟨fun x => inj (get_inverse ⟨x, rfl⟩), fun y => get_inverse (surj y)⟩

theorem isFixedPointFreeInvolution_iff (t : Table) :
    isFixedPointFreeInvolution t = true ↔ Involution t ∧ NoFixedPoint t := by
  simp only [isFixedPointFreeInvolution, Bool.and_eq_true, decide_eq_true_eq, Involution,
    NoFixedPoint]

/-- The images after an exchange. -/
theorem exchange_get (t : Table) (a b x : Letter) :
    (exchange t a b).get x =
      if x = b then t.get a else if x = a then t.get b else t.get x := by
  simp only [exchange, get_set]

theorem inPair_eq_false {pb : Table} {x : Letter} : inPair pb x = false ↔ pb.get x = x := by
  simp [inPair]

theorem rotors?_eq_some {s : State} {rs : PerSlot Rotor} :
    s.rotors? = some rs ↔ s.rotor = ⟨some rs.r1, some rs.r2, some rs.r3⟩ := by
  obtain ⟨a, b, c⟩ := rs
  unfold State.rotors?
  cases h : s.rotor with
  | mk x y z => cases x <;> cases y <;> cases z <;> simp

theorem rotors?_eq_none {s : State} : s.rotors? = none ↔ ∃ k, s.rotValid k = false := by
  unfold State.rotors? State.rotValid
  cases h : s.rotor with
  | mk x y z =>
    constructor
    · intro hn
      cases x
      · exact ⟨.r1, rfl⟩
      · cases y
        · exact ⟨.r2, rfl⟩
        · cases z
          · exact ⟨.r3, rfl⟩
          · cases hn
    · rintro ⟨k, hk⟩
      cases k <;> cases x <;> cases y <;> cases z <;> first | rfl | cases hk

theorem anyDs_eq_false {s : State} : s.anyDs = false ↔ s.BaseStepping := by
  obtain ⟨_, ⟨a, b, c⟩, _, _, _, _, _, _⟩ := s
  cases a <;> cases b <;> cases c <;> simp [State.anyDs, State.BaseStepping]

end Machine

end Sys2Proof
end

