-- ==== Sys2Proof/Laws/Ops.lean ====
section
/-! SUPPORT. What each shared operation of a meaning can do, said once: if it answers a next state,
then one of these cases holds. -/

namespace Sys2Proof.Machine

@[simp] theorem respond_eq_next {v : Field5} {s t : State} :
    respond v s = .next t ↔ t = s.deliver ⟨.ok, v⟩ := by
  simp [respond, eq_comm]

@[simp] theorem raise_eq_next {st : Status} {s t : State} :
    raise st s = .next t ↔ t = s.deliver ⟨st, 0⟩ := by
  simp [raise, eq_comm]

@[simp] theorem respond_ne_refused {v : Field5} {s : State} {why : Refusal} :
    respond v s ≠ .refused why := by simp [respond]

@[simp] theorem raise_ne_refused {st : Status} {s : State} {why : Refusal} :
    raise st s ≠ .refused why := by simp [raise]

/-- A symbol operand either raises INVALID_SYMBOL or goes on with its letter. -/
theorem withSymbol_cases {x : Field5} {s : State} {rest : Letter → Result} :
    (25 < x.toNat ∧ withSymbol x s rest = raise .invalidSymbol s)
      ∨ ∃ a, x = letterBits a ∧ withSymbol x s rest = rest a := by
  unfold withSymbol
  cases h : letter? x with
  | none => exact .inl ⟨letter?_eq_none.mp h, rfl⟩
  | some a => exact .inr ⟨a, letter?_eq_some.mp h, rfl⟩

@[simp] theorem withSymbol_letterBits (a : Letter) (s : State) (rest : Letter → Result) :
    withSymbol (letterBits a) s rest = rest a := by
  simp [withSymbol]

theorem withSymbol_of_bad {x : Field5} (h : 25 < x.toNat) (s : State) (rest : Letter → Result) :
    withSymbol x s rest = raise .invalidSymbol s := by
  simp [withSymbol, letter?_eq_none.mpr h]

/-- An observed rotor either is not loaded or answers a letter, and nothing else changes. -/
theorem observeRotor_cases (k : Slot) (s : State) (f : Rotor → Letter) :
    (s.rotValid k = false ∧ observeRotor k s f = raise .notConfigured s)
      ∨ ∃ r, s.rotor.get k = some r ∧ observeRotor k s f = respond (letterBits (f r)) s := by
  unfold observeRotor
  cases h : s.rotor.get k with
  | none => exact .inl ⟨by simp [State.rotValid, h], rfl⟩
  | some r => exact .inr ⟨r, rfl, rfl⟩

/-- An observed reflector either is not loaded or answers a letter, and nothing else changes. -/
theorem observeRef_cases (s : State) (f : Table → Letter) :
    (s.refValid = false ∧ observeRef s f = raise .notConfigured s)
      ∨ ∃ t, s.ref = some t ∧ observeRef s f = respond (letterBits (f t)) s := by
  unfold observeRef
  cases h : s.ref with
  | none => exact .inl ⟨by simp [State.refValid, h], rfl⟩
  | some t => exact .inr ⟨t, rfl, rfl⟩

/-- Stepping is the base rule, or the open rule where it is given, or refused. -/
theorem stepped_cases (rs : PerSlot Rotor) (k : Slot) (s : State) :
    (s.BaseStepping ∧ stepped rs k s = .ok (stepSlot (rs.map Rotor.turn) k s.off))
      ∨ (¬s.BaseStepping ∧ s.given.dsStepRule = true
          ∧ stepped rs k s = .ok (Config.dsStepRule s.off (rs.map Rotor.turn) s.dsEn k))
      ∨ (¬s.BaseStepping ∧ s.given.dsStepRule = false
          ∧ stepped rs k s = .error .dsStepRuleUnknown) := by
  unfold stepped
  cases h : s.anyDs with
  | false => exact .inl ⟨anyDs_eq_false.mp h, by simp⟩
  | true =>
    have hb : ¬s.BaseStepping := fun b => by rw [anyDs_eq_false.mpr b] at h; cases h
    cases hg : s.given.dsStepRule with
    | true => exact .inr (.inl ⟨hb, rfl, by simp⟩)
    | false => exact .inr (.inr ⟨hb, rfl, by simp⟩)

/-- One step of the slow slot: no carry. -/
theorem stepSlot_r1 (turn : PerSlot Letter) (off : Offsets) :
    stepSlot turn .r1 off = ⟨off.r1 + 1, off.r2, off.r3⟩ := rfl

/-- One step of the middle slot: a carry to slot 1 at its turnover. -/
theorem stepSlot_r2 (turn : PerSlot Letter) (off : Offsets) :
    stepSlot turn .r2 off =
      if off.r2 = turn.r2 then ⟨off.r1 + 1, off.r2 + 1, off.r3⟩ else ⟨off.r1, off.r2 + 1, off.r3⟩ := by
  obtain ⟨a, b, c⟩ := off
  by_cases h : b = turn.r2 <;>
    simp [stepSlot, chainFrom, nextSlot, stepChain, PerSlot.get, PerSlot.set, h]

/-- One step of the fast slot: a carry into a step of slot 2 at its turnover. -/
theorem stepSlot_r3 (turn : PerSlot Letter) (off : Offsets) :
    stepSlot turn .r3 off =
      if off.r3 = turn.r3 then (stepSlot turn .r2 off).set .r3 (off.r3 + 1)
      else ⟨off.r1, off.r2, off.r3 + 1⟩ := by
  obtain ⟨a, b, c⟩ := off
  by_cases h : c = turn.r3 <;> by_cases h' : b = turn.r2 <;>
    simp [stepSlot, chainFrom, nextSlot, stepChain, PerSlot.get, PerSlot.set, h, h']

end Sys2Proof.Machine
end

