-- ==== Sys2Proof/Laws/PerInstr.lean ====
section
/-! SUPPORT. One law per constructor: the word of a command is a word of its row in
spec/opcode_table.json, by the row's match and mask. -/

namespace Sys2Proof

/-- The match and mask of a command's row, copied from spec/opcode_table.json. -/
def tableRow : Instr → CommandWord × CommandWord
  | .proc _ => (0x1000, 0xFFE0)
  | .step _ => (0x2000, 0xF3FF)
  | .setoff _ _ => (0x3000, 0xF3E0)
  | .getoff _ => (0x4000, 0xF3FF)
  | .setall _ => (0x5000, 0xFFE0)
  | .ldrot _ _ _ => (0x6000, 0xF000)
  | .ldref _ => (0x7000, 0xFC1F)
  | .plclr => (0x8000, 0xFFFF)
  | .plswp _ _ => (0x9000, 0xFC00)
  | .setds _ _ => (0xA000, 0xF3FE)
  | .probe _ _ _ => (0xB000, 0xF000)
  | .getcfg _ _ => (0xC000, 0xF01F)

namespace Laws.TableRow

/-- The command's word is a word of its table row. -/
def Statement (i : Instr) : Prop := encode i &&& (tableRow i).2 = (tableRow i).1

theorem proc (x : Field5) : Statement (.proc x) := by
  unfold Statement; revert x; decide
theorem step (k : Slot) : Statement (.step k) := by cases k <;> rfl
theorem setoff (k : Slot) (v : Field5) : Statement (.setoff k v) := by
  unfold Statement; cases k <;> revert v <;> decide
theorem getoff (k : Slot) : Statement (.getoff k) := by cases k <;> rfl
theorem setall (v : Field5) : Statement (.setall v) := by
  unfold Statement; revert v; decide
theorem ldrot (k : Slot) (src : Source) (t : Field5) : Statement (.ldrot k src t) := by
  have h : ∀ fa t : Field5, wordOf 0x6 (slotBits k) fa t &&& 0xF000 = 0x6000 := by
    cases k <;> decide
  exact h _ _
theorem ldref (src : Source) : Statement (.ldref src) := by
  have h : ∀ fa : Field5, wordOf 0x7 0 fa 0 &&& 0xFC1F = 0x7000 := by decide
  exact h _
theorem plclr : Statement .plclr := rfl
theorem plswp (a b : Field5) : Statement (.plswp a b) := by
  unfold Statement; revert a b; decide
theorem setds (k : Slot) (en : Bool) : Statement (.setds k en) := by
  cases k <;> cases en <;> rfl
theorem probe (stage : Stage) (k : Option Slot) (x : Field5) : Statement (.probe stage k x) := by
  have h : ∀ (sl : BitVec 2) (fa x : Field5), wordOf 0xB sl fa x &&& 0xF000 = 0xB000 := by decide
  exact h _ _ _
theorem getcfg (item : Item) (k : Option Slot) : Statement (.getcfg item k) := by
  have h : ∀ (sl : BitVec 2) (fa : Field5), wordOf 0xC sl fa 0 &&& 0xF01F = 0xC000 := by decide
  exact h _ _

end Laws.TableRow

end Sys2Proof
end

