-- ==== Sys2Proof/Laws/Step.lean ====
section
/-! SUPPORT. What a step and a run can do, by what the host presents next. -/

namespace Sys2Proof.Machine

theorem step_nil {s : State} (h : s.inbox = []) : step s = .next s := by
  simp [step, takeInput_nil h, idle]

theorem step_reset {s : State} {rest : List HostInput} (h : s.inbox = .reset :: rest) :
    step s = hostReset { s with inbox := rest } := by
  simp [step, takeInput_cons h]

theorem step_command {s : State} {cw : CommandWord} {tbl : Payload} {rest : List HostInput}
    (h : s.inbox = .command cw tbl :: rest) :
    step s = match decode cw tbl with
      | .cmd i => exec i { s with inbox := rest }
      | .illegal _ => execIllegal { s with inbox := rest } := by
  cases hd : decode cw tbl <;> simp [step, takeInput_cons h, hd]

/-- A step idles, resets, executes a decoded command or raises ILLEGAL_CMD. -/
theorem step_cases (s : State) :
    (s.inbox = [] ∧ step s = .next s)
      ∨ (∃ rest, s.inbox = .reset :: rest ∧ step s = hostReset { s with inbox := rest })
      ∨ (∃ cw tbl rest i, s.inbox = .command cw tbl :: rest ∧ decode cw tbl = .cmd i
          ∧ step s = exec i { s with inbox := rest })
      ∨ ∃ cw tbl rest why, s.inbox = .command cw tbl :: rest ∧ decode cw tbl = .illegal why
          ∧ step s = raise .illegalCmd { s with inbox := rest } := by
  cases h : s.inbox with
  | nil => exact .inl ⟨rfl, step_nil h⟩
  | cons x rest =>
    cases x with
    | reset => exact .inr (.inl ⟨rest, rfl, step_reset h⟩)
    | command cw tbl =>
      cases hd : decode cw tbl with
      | cmd i => exact .inr (.inr (.inl ⟨cw, tbl, rest, i, rfl, hd, by simp [step_command h, hd]⟩))
      | illegal why =>
        exact .inr (.inr (.inr ⟨cw, tbl, rest, why, rfl, hd, by
          simp [step_command h, hd, execIllegal]⟩))

theorem run_succ_next {s t : State} (h : step s = .next t) (n : Nat) :
    Sys2Proof.core.run (n + 1) s = Sys2Proof.core.run n t := by
  simp only [Host.Core.run, Sys2Proof.core, h]

/-- A run of m + n steps is a run of m and then of n from where it ends. -/
theorem run_add {m : Nat} : ∀ {s t : State} (n : Nat), Sys2Proof.core.run m s = .next t →
    Sys2Proof.core.run (m + n) s = Sys2Proof.core.run n t := by
  induction m with
  | zero =>
    intro s t n h
    cases h
    rw [Nat.zero_add]
  | succ m ih =>
    intro s t n h
    rw [Nat.add_right_comm]
    cases hs : step s with
    | next u =>
      rw [run_succ_next hs] at h ⊢
      exact ih n h
    | fault r => cases r
    | refused r => simp [Host.Core.run, Sys2Proof.core, hs] at h

end Sys2Proof.Machine
end

