-- ==== Sys2Proof/Machine/Asm.lean ====
section
/-! DEFINITION. The written form of commands, macros and responses (30_encoding.md R53, R54). It is
notation of the host's side: `exec` and `step` do not use it. -/

namespace Sys2Proof.Machine

/-- A token of a line. -/
inductive Token where
  | word (cs : List Char)
  | text (cs : List Char)
  | comma
  deriving DecidableEq, Repr

/-- Where the scanner stands, with the characters of the open token in reverse. -/
inductive Scan where
  | between
  | inWord (rev : List Char)
  | inText (rev : List Char)

/-- The tokens of a line; `;` starts a comment, and a quoted string must close. -/
def tokens : Scan → List Char → Option (List Token)
  | .between, [] => some []
  | .inWord w, [] => some [.word w.reverse]
  | .inText _, [] => none
  | .inText w, c :: cs =>
    if c = '"' then (tokens .between cs).map (.text w.reverse :: ·) else tokens (.inText (c :: w)) cs
  | .between, c :: cs =>
    if c = ';' then some []
    else if c = ',' then (tokens .between cs).map (.comma :: ·)
    else if c = '"' then tokens (.inText []) cs
    else if c.isWhitespace then tokens .between cs
    else tokens (.inWord [c]) cs
  | .inWord w, c :: cs =>
    if c = ';' then some [.word w.reverse]
    else if c = ',' then (tokens .between cs).map (.word w.reverse :: .comma :: ·)
    else if c = '"' then (tokens (.inText []) cs).map (.word w.reverse :: ·)
    else if c.isWhitespace then (tokens .between cs).map (.word w.reverse :: ·)
    else tokens (.inWord (c :: w)) cs

/-- Whether a token is a mnemonic or keyword, in either case of letters. -/
def Token.is (t : Token) (keyword : String) : Bool :=
  match t with
  | .word cs => cs.map Char.toUpper == keyword.toList
  | .text _ | .comma => false

/-- The value of a row of digits in a base, none if a character is no digit. -/
def digitsValue (base : Nat) (cs : List Char) : Option Nat :=
  cs.foldl (init := some 0) fun acc c =>
    let d := if c.isDigit then c.toNat - '0'.toNat else c.toUpper.toNat - 'A'.toNat + 10
    match acc with
    | some n => if c.isAlphanum && d < base then some (n * base + d) else none
    | none => none

/-- The symbol of a letter `A`..`Z`. -/
def letterSym? (c : Char) : Option Field5 :=
  if 'A' ≤ c ∧ c ≤ 'Z' then some (BitVec.ofNat 5 (c.toNat - 'A'.toNat)) else none

/-- `<sym>`: a letter, or `#<n>` for a raw field value 0..31. -/
def sym? : Token → Option Field5
  | .word ['#'] => none
  | .word ('#' :: ds) =>
    (digitsValue 10 ds).bind fun n => if n < 32 then some (BitVec.ofNat 5 n) else none
  | .word [c] => letterSym? c
  | .word _ | .text _ | .comma => none

/-- `r<s>`. -/
def slot? (t : Token) : Option Slot :=
  if t.is "R1" then some .r1 else if t.is "R2" then some .r2 else if t.is "R3" then some .r3 else none

/-- A ROM index `<k>`, 0..2. -/
def romIndex? (t : Token) : Option (Fin 3) :=
  if t.is "0" then some 0 else if t.is "1" then some 1 else if t.is "2" then some 2 else none

/-- `rom<k>`. -/
def rom? (t : Token) : Option Source :=
  if t.is "ROM0" then some (.rom 0) else if t.is "ROM1" then some (.rom 1)
  else if t.is "ROM2" then some (.rom 2) else none

/-- A payload with these entries, the first in bits 4:0 (R31). -/
def packTable (es : List Field5) : Payload :=
  es.foldr (fun e acc => (acc <<< 5) ||| e.setWidth 130) 0

/-- The 26-letter table after `tbl`, as a quoted string. -/
def table? : Token → Option Source
  | .text cs =>
    if cs.length = 26 then (cs.mapM letterSym?).map fun es => .payload (packTable es) else none
  | .word _ | .comma => none

/-- A plug list: pairs of letters with blanks between them. -/
def pairs? : List Char → Option (List (Field5 × Field5))
  | [] => some []
  | [_] => none
  | a :: b :: rest =>
    if a.isWhitespace then pairs? (b :: rest)
    else
      match letterSym? a, letterSym? b, pairs? rest with
      | some x, some y, some ps => some ((x, y) :: ps)
      | _, _, _ => none

/-- The plug list in a quoted string. -/
def plugs? : Token → Option (List (Field5 × Field5))
  | .text cs => pairs? cs
  | .word _ | .comma => none

/-- The letters in a quoted string. -/
def message? : Token → Option (List Field5)
  | .text cs => cs.mapM letterSym?
  | .word _ | .comma => none

/-- The stages written with a symbol alone. -/
def plainStage? (t : Token) : Option Stage :=
  if t.is "PB" then some .pb else if t.is "REF" then some .ref else none

/-- The stages written with a slot and a symbol. -/
def rotorStage? (t : Token) : Option Stage :=
  if t.is "FLOW" then some .flow else if t.is "RFLOW" then some .rflow
  else if t.is "FWD" then some .fwd else if t.is "BWD" then some .bwd else none

/-- The command a line's mnemonic and operands stand for (R53). -/
def command? (m : Token) (ops : List Token) : Option Instr :=
  match ops with
  | [] => if m.is "PLCLR" then some .plclr else none
  | [a] =>
    if m.is "PROC" then (sym? a).map .proc
    else if m.is "STEP" then (slot? a).map .step
    else if m.is "GETOFF" then (slot? a).map .getoff
    else if m.is "SETALL" then (sym? a).map .setall
    else if m.is "LDREF" then (rom? a).map .ldref
    else if m.is "GETCFG" && a.is "VALID" then some (.getcfg .valid none)
    else none
  | [a, b] =>
    if m.is "LDREF" && a.is "TBL" then (table? b).map .ldref else none
  | [a, .comma, b] =>
    if m.is "SETOFF" then Instr.setoff <$> slot? a <*> sym? b
    else if m.is "PLSWP" then Instr.plswp <$> sym? a <*> sym? b
    else if m.is "SETDS" && b.is "0" then (slot? a).map fun k => .setds k false
    else if m.is "SETDS" && b.is "1" then (slot? a).map fun k => .setds k true
    else if m.is "PROBE" then Instr.probe <$> plainStage? a <*> pure none <*> sym? b
    else if m.is "GETCFG" && a.is "TURN" then (slot? b).map fun k => .getcfg .turn (some k)
    else if m.is "GETCFG" && a.is "DS" then (slot? b).map fun k => .getcfg .ds (some k)
    else none
  | [a, .comma, b, .comma, c] =>
    if m.is "LDROT" then Instr.ldrot <$> slot? a <*> rom? b <*> sym? c
    else if m.is "PROBE" then Instr.probe <$> rotorStage? a <*> (some <$> slot? b) <*> sym? c
    else none
  | [a, .comma, b, c, .comma, d] | [a, .comma, b, c, d] =>
    if m.is "LDROT" && b.is "TBL" then Instr.ldrot <$> slot? a <*> table? c <*> sym? d else none
  | _ => none

/-- The macro a line stands for (R54); MACHINE's start is `A` where it is not written. -/
def hostMacro? (m : Token) (ops : List Token) : Option HostMacro :=
  match ops with
  | [a] =>
    if m.is "PLUGS" then (plugs? a).map .plugs
    else if m.is "PROCSEQ" then (message? a).map .procseq
    else none
  | [a, .comma, b, .comma, c] =>
    if m.is "SETPOS" then HostMacro.setpos <$> sym? a <*> sym? b <*> sym? c else none
  | a :: .comma :: b :: .comma :: c :: .comma :: d :: .comma :: e :: .comma :: f :: .comma ::
      g :: .comma :: h :: start =>
    if m.is "MACHINE" then
      match start with
      | [] => HostMacro.machine <$> romIndex? a <*> sym? b <*> romIndex? c <*> sym? d <*> romIndex? e <*>
          sym? f <*> romIndex? g <*> plugs? h <*> pure 0
      | [.comma, x] => HostMacro.machine <$> romIndex? a <*> sym? b <*> romIndex? c <*> sym? d <*>
          romIndex? e <*> sym? f <*> romIndex? g <*> plugs? h <*> sym? x
      | _ => none
    else none
  | _ => none

/-- `.word 0x<hhhh>`: the raw word, reserved ones included; the payload beside it is zeros. -/
def rawWord? (m : Token) (ops : List Token) : Option HostInput :=
  match ops with
  | [.word ['0', x, a, b, c, d]] =>
    if m.is ".WORD" && x.toUpper == 'X' then
      (digitsValue 16 [a, b, c, d]).map fun n => .command (BitVec.ofNat 16 n) 0
    else none
  | _ => none

/-- What the host presents for one line: nothing for an empty or comment line, none where the line is
not in the syntax. -/
def assemble (line : String) : Option (List HostInput) :=
  match tokens .between line.toList with
  | none => none
  | some [] => some []
  | some (m :: ops) =>
    match command? m ops, hostMacro? m ops, rawWord? m ops with
    | some i, _, _ => some [presented i]
    | none, some x, _ => some (x.expand.map presented)
    | none, none, some w => some [w]
    | none, none, none => none

/-- The written name of a status (R98). -/
def Status.name : Status → String
  | .ok => "OK"
  | .invalidWiring => "INVALID_WIRING"
  | .invalidReflector => "INVALID_REFLECTOR"
  | .duplicateLetter => "DUPLICATE_LETTER"
  | .invalidSymbol => "INVALID_SYMBOL"
  | .notConfigured => "NOT_CONFIGURED"
  | .illegalCmd => "ILLEGAL_CMD"

/-- The commands that return a symbol: PROC, STEP, GETOFF, PROBE and GETCFG TURN (R53). -/
def returnsSymbol : Instr → Bool
  | .proc _ | .step _ | .getoff _ | .probe _ _ _ | .getcfg .turn _ => true
  | .getcfg .ds _ | .getcfg .valid _ | .setoff _ _ | .setall _ | .ldrot _ _ _ | .ldref _ | .plclr
  | .plswp _ _ | .setds _ _ => false

/-- The written form of a number 0..31. -/
def numberText (n : Nat) : String :=
  if n < 10 then String.ofList [Char.ofNat ('0'.toNat + n)]
  else String.ofList [Char.ofNat ('0'.toNat + n / 10), Char.ofNat ('0'.toNat + n % 10)]

/-- The written form of a result: a letter for a symbol, else a number 0..31 (R53). -/
def resultText (symbol : Bool) (result : Field5) : String :=
  if symbol && decide (result.toNat < 26) then
    String.ofList [Char.ofNat ('A'.toNat + result.toNat)]
  else numberText result.toNat

/-- The written form of the response to a command: `-> <STATUS> <result>` (R53). -/
def responseText (i : Instr) (r : Response) : String :=
  "-> " ++ r.status.name ++ " " ++ resultText (returnsSymbol i && r.status == .ok) r.result

end Sys2Proof.Machine
end

