-- ==== Sys2Proof/Tests/Slice0.lean ====
section
/-! SUPPORT. Tests of one step each, with expected results from spec/95_test_vectors.md, and for each
statement with hypotheses a concrete state and operands that meet them together. -/

namespace Sys2Proof.Tests

open Sys2Proof.Machine

/-! ## Helpers -/

/-- The rotor LDROT loads from a ROM entry with a turnover. -/
def romRotor (k : Fin 3) (turn : Letter) : Rotor := rotorOf (symbolsOf (rotorRom k)) turn

/-- The three rotors of the base configuration W1. -/
def baseRotors : PerSlot Rotor := ⟨romRotor 0 16, romRotor 1 4, romRotor 2 21⟩

/-- The base configuration W1 at a position: ROM rotors 0, 1, 2 with turnovers Q, E, V, ROM reflector
0, pairs AE and MY. -/
def base (a b c : Letter) : State :=
  { State.reset with
    off := ⟨a, b, c⟩
    rotor := ⟨some baseRotors.r1, some baseRotors.r2, some baseRotors.r3⟩
    ref := some (symbolsOf (reflectorRom 0))
    pb := exchange (exchange Table.identity 0 4) 12 24 }

/-- The base configuration at AAA with one double-step enable. -/
def doubled : State := { base 0 0 0 with dsEn := ⟨false, true, false⟩ }

/-- A state of a model that is given neither open parameter. -/
def bare (s : State) : State := { s with given := ⟨false, false⟩ }

/-- The state with no reflector loaded, the rotors as they are. -/
def withoutReflector (s : State) : State := { s with ref := none }

/-- The state with no rotor loaded, the reflector as it is. -/
def withoutRotors (s : State) : State := { s with rotor := ⟨none, none, none⟩ }

/-- Whether a command went on. -/
def goesOn : Result → Bool
  | .next _ => true
  | .fault _ | .refused _ => false

/-- The state a command ends in, or the given one where it does not go on. -/
def after (o : Result) (s : State) : State :=
  match o with
  | .next t => t
  | .fault _ | .refused _ => s

theorem eq_next_after {o : Result} (h : goesOn o = true) (s : State) : o = .next (after o s) := by
  cases o with
  | next t => rfl
  | fault r => cases r
  | refused r => cases h

/-- The status code and result of the last response, and the position. -/
def seen (o : Result) : Option (BitVec 8 × Nat × Nat × Nat) :=
  match o with
  | .next t => t.responses.getLast?.map fun r => (r.word, t.off.r1.val, t.off.r2.val, t.off.r3.val)
  | .fault _ | .refused _ => none

/-- The refusal a command ends in. -/
def refusalOf : Result → Option Refusal
  | .refused r => some r
  | .next _ | .fault _ => none

/-- The command word `w` with payload `tbl`, executed in `s` by one step. -/
def stepWord (s : State) (w : CommandWord) (tbl : Payload) : Result :=
  step (s.presentNext (.command w tbl))

/-! ## Well-formedness: an ill-formed term for each check, refused -/

theorem test_wf_probe_pb_with_slot : ¬WellFormed (.probe .pb (some .r1) 0) := by decide
theorem test_wf_probe_ref_with_slot : ¬WellFormed (.probe .ref (some .r3) 0) := by decide
theorem test_wf_probe_flow_without_slot : ¬WellFormed (.probe .flow none 0) := by decide
theorem test_wf_getcfg_valid_with_slot : ¬WellFormed (.getcfg .valid (some .r2)) := by decide
theorem test_wf_getcfg_turn_without_slot : ¬WellFormed (.getcfg .turn none) := by decide

/-! ## Decoding: each command's word, written out bit by bit from 30_encoding.md R44 and R46 -/

theorem test_decode_proc : decode 0b0001_00_00000_00111 0 = .cmd (.proc 7) := by decide
theorem test_decode_step : decode 0b0010_11_00000_00000 0 = .cmd (.step .r3) := by decide
theorem test_decode_setoff : decode 0b0011_10_00000_00100 0 = .cmd (.setoff .r2 4) := by decide
theorem test_decode_getoff : decode 0b0100_11_00000_00000 0 = .cmd (.getoff .r3) := by decide
theorem test_decode_setall : decode 0b0101_00_00000_11001 0 = .cmd (.setall 25) := by decide
theorem test_decode_ldrot : decode 0b0110_10_00001_00100 0 = .cmd (.ldrot .r2 (.rom 1) 4) := by
  decide
theorem test_decode_ldrot_payload :
    decode 0b0110_01_11111_10000 9 = .cmd (.ldrot .r1 (.payload 9) 16) := by decide
theorem test_decode_ldref : decode 0b0111_00_00010_00000 0 = .cmd (.ldref (.rom 2)) := by decide
theorem test_decode_plclr : decode 0b1000_00_00000_00000 0 = .cmd .plclr := by decide
theorem test_decode_plswp : decode 0b1001_00_00100_01100 0 = .cmd (.plswp 4 12) := by decide
theorem test_decode_setds : decode 0b1010_10_00000_00001 0 = .cmd (.setds .r2 true) := by decide
theorem test_decode_probe :
    decode 0b1011_11_00001_00000 0 = .cmd (.probe .flow (some .r3) 0) := by decide
theorem test_decode_getcfg : decode 0b1100_00_00010_00000 0 = .cmd (.getcfg .valid none) := by
  decide

/-- 95_test_vectors.md §2.2, all 33 rows. -/
theorem test_decode_reserved_words :
    ([0x0000, 0xD000, 0xE000, 0xF123, 0x1400, 0x1020, 0x141A, 0x2000, 0x2C01, 0x2C20, 0x3020, 0x4001,
      0x5400, 0x6010, 0x6460, 0x67C0, 0x7001, 0x7400, 0x7060, 0x8001, 0x8400, 0x9404, 0xA802, 0xA001,
      0xA820, 0xB0C0, 0xB020, 0xB400, 0xB860, 0xC060, 0xC000, 0xC440, 0xCC01] :
        List CommandWord).all (fun w => seen (stepWord State.reset w 0) == some (0xC0, 0, 0, 0))
      = true := by decide

/-- The names of what is wrong with a word. -/
theorem test_illegal_names :
    decode 0xD000 0 = .illegal .reservedOpcode ∧ decode 0x8001 0 = .illegal .mustBeZero
      ∧ decode 0xA802 0 = .illegal .mustBeZero ∧ decode 0x6010 0 = .illegal .outsideList := by decide

/-! ## One step of each command -/

/-- §3 P1 row 9 and §2.5 row 17 (the source's own first-symbol case). -/
theorem test_proc_base :
    seen (stepWord (base 0 0 0) 0x1007 0) = some (0x0A, 0, 0, 1)
      ∧ seen (stepWord (base 0 0 0) 0x1000 0) = some (0x01, 0, 0, 1) := by decide
/-- §3 P4 row 5: the carry at slot 3's turnover; §2.1 rows 14 and 15: the guards. -/
theorem test_proc_carry_and_guards :
    seen (stepWord (base 0 3 21) 0x1000 0) = some (0x02, 0, 4, 22)
      ∧ seen (stepWord State.reset 0x1000 0) = some (0xA0, 0, 0, 0)
      ∧ seen (stepWord State.reset 0x101A 0) = some (0x80, 0, 0, 0) := by decide
/-- §3 P4 rows 11, 15, 19: cascade, wrap without carry, no carry from slot 1. -/
theorem test_step_cascade_and_wrap :
    seen (stepWord (base 0 4 21) 0x2C00 0) = some (0x16, 1, 5, 22)
      ∧ seen (stepWord (base 25 25 25) 0x2C00 0) = some (0x00, 25, 25, 0)
      ∧ seen (stepWord (base 16 4 21) 0x2C00 0) = some (0x16, 17, 5, 22) := by decide
/-- §3 P4 rows 21 and 23; §2.1 row 16. -/
theorem test_step_slower_slots :
    seen (stepWord (base 17 4 22) 0x2800 0) = some (0x05, 18, 5, 22)
      ∧ seen (stepWord (base 16 5 22) 0x2400 0) = some (0x11, 17, 5, 22)
      ∧ seen (stepWord State.reset 0x2C00 0) = some (0xA0, 0, 0, 0) := by decide
/-- §3 P4 row 24: no carry on a write; §2.5 row 18. -/
theorem test_setoff :
    seen (stepWord (base 17 5 22) 0x3C15 0) = some (0x00, 17, 5, 21)
      ∧ seen (stepWord (base 0 0 1) 0x341A 0) = some (0x80, 0, 0, 1) := by decide
/-- §2.5 row 37. -/
theorem test_getoff : seen (stepWord (base 25 25 1) 0x4C00 0) = some (0x01, 25, 25, 1) := by decide
/-- §2.5 rows 34 and 19. -/
theorem test_setall :
    seen (stepWord (base 0 0 1) 0x5019 0) = some (0x00, 25, 25, 25)
      ∧ seen (stepWord (base 0 0 1) 0x501F 0) = some (0x80, 0, 0, 1) := by decide
/-- R58's example: FWD, BWD and TURN of ROM 0 with turnover Q. -/
theorem test_ldrot_rom0 :
    (after (stepWord State.reset 0x6410 0) State.reset).rotor.r1
      = some ⟨symbolsOf (wiring "EKMFLGDQVZNTOWYHXUSPAIBRCJ"),
          symbolsOf (wiring "UWYGADFPVZBECKMTHXSLRINQOJ"), 16⟩ := by decide
/-- §2.3 rows 1, 2 and 5, with the identity payload of §2.3's packing table. -/
theorem test_ldrot_checks :
    seen (stepWord State.reset 0x641A 0) = some (0x80, 0, 0, 0)
      ∧ seen (stepWord State.reset 0x67E0 0) = some (0x20, 0, 0, 0)
      ∧ seen (stepWord State.reset 0x67E0 0x338BDAB49CA307B9AC5A928398A418820) = some (0x00, 0, 0, 0)
    := by decide
/-- §2.3 rows 22, 23, 24 and 27, with the payloads of §2.3's packing table. -/
theorem test_ldref_checks :
    seen (stepWord State.reset 0x73E0 0x338BDAB49CA307B9AC5A928398A418820) = some (0x40, 0, 0, 0)
      ∧ seen (stepWord State.reset 0x73E0 0x122885007CA973E2CE9B73580CCB2B144) = some (0x40, 0, 0, 0)
      ∧ seen (stepWord State.reset 0x73E0 0) = some (0x20, 0, 0, 0)
      ∧ seen (stepWord State.reset 0x73E0 0x0663A90F94DAEA42222D835BE160CB124) = some (0x00, 0, 0, 0)
    := by decide
/-- §2.3 row 21: the refusal where `REF_ROM_2` is not given. -/
theorem test_ldref_rom2_refused :
    refusalOf (stepWord (bare State.reset) 0x7040 0) = some .refRom2Unknown := by decide
/-- §2.4 row 12. -/
theorem test_plclr :
    (after (stepWord (base 0 0 0) 0x8000 0) State.reset).pb = Table.identity := by decide
/-- §2.4 rows 1, 2, 3 and 8. -/
theorem test_plswp :
    seen (stepWord State.reset 0x9000 0) = some (0x60, 0, 0, 0)
      ∧ (after (stepWord State.reset 0x9004 0) State.reset).pb.get 4 = 0
      ∧ seen (stepWord (base 0 0 0) 0x908C 0) = some (0x60, 0, 0, 0)
      ∧ seen (stepWord State.reset 0x935A 0) = some (0x80, 0, 0, 0) := by decide
/-- §2.5 rows 9 and 15. -/
theorem test_setds :
    (after (stepWord (base 0 0 0) 0xA801 0) State.reset).dsEn = ⟨false, true, false⟩
      ∧ (after (stepWord doubled 0xA800 0) State.reset).dsEn = ⟨false, false, false⟩ := by decide
/-- §2.5 rows 11 and 12: the refusals where `DS_STEP_RULE` is not given. -/
theorem test_double_step_refused :
    refusalOf (stepWord (bare doubled) 0x1000 0) = some .dsStepRuleUnknown
      ∧ refusalOf (stepWord (bare doubled) 0x2C00 0) = some .dsStepRuleUnknown := by decide
/-- §3 P6 rows 2 to 6. -/
theorem test_probe_inward :
    seen (stepWord (base 0 0 1) 0xB007 0) = some (0x07, 0, 0, 1)
      ∧ seen (stepWord (base 0 0 1) 0xBC27 0) = some (0x10, 0, 0, 1)
      ∧ seen (stepWord (base 0 0 1) 0xB430 0) = some (0x17, 0, 0, 1)
      ∧ seen (stepWord (base 0 0 1) 0xB077 0) = some (0x07, 0, 0, 1) := by decide
/-- §3 P6 row 9, §2.5 rows 28 and 29 (both adders wrap), §2.3 rows 11 and 12. -/
theorem test_probe_outward :
    seen (stepWord (base 0 0 1) 0xBC54 0) = some (0x0A, 0, 0, 1)
      ∧ seen (stepWord (base 25 0 1) 0xB439 0) = some (0x03, 25, 0, 1)
      ∧ seen (stepWord (base 25 0 1) 0xB44A 0) = some (0x00, 25, 0, 1)
      ∧ seen (stepWord (base 0 0 0) 0xB480 0) = some (0x04, 0, 0, 0)
      ∧ seen (stepWord (base 0 0 0) 0xB4A0 0) = some (0x14, 0, 0, 0) := by decide
/-- §2.5 rows 10, 31 and 33; §2.1 row 8. -/
theorem test_getcfg :
    seen (stepWord doubled 0xC820 0) = some (0x01, 0, 0, 0)
      ∧ seen (stepWord (base 0 0 0) 0xCC00 0) = some (0x15, 0, 0, 0)
      ∧ seen (stepWord (base 0 0 0) 0xC040 0) = some (0x0F, 0, 0, 0)
      ∧ seen (stepWord State.reset 0xC400 0) = some (0xA0, 0, 0, 0) := by decide

/-! ## The written form (30_encoding.md R53, R54) -/

theorem test_assemble_ldrot :
    assemble "LDROT r1, rom0, Q ; the slow slot" = some [.command 0x6410 0] := by decide
theorem test_assemble_table :
    assemble "ldref TBL \"EJMZALYXVBWFCRQUONTSPIKHGD\""
      = some [.command 0x73E0 0x0663A90F94DAEA42222D835BE160CB124] := by decide
theorem test_assemble_raw :
    assemble "PROC #26" = some [.command 0x101A 0]
      ∧ assemble ".word 0xF123" = some [.command 0xF123 0] := by decide
theorem test_assemble_macro :
    assemble "PLUGS \"AE MY\""
      = some [.command 0x8000 0, .command 0x9004 0, .command 0x9198 0] := by decide
theorem test_response_text :
    responseText (.proc 7) ⟨.ok, 10⟩ = "-> OK K"
      ∧ responseText (.getcfg .valid none) ⟨.ok, 15⟩ = "-> OK 15"
      ∧ responseText (.probe .ref none 0) ⟨.notConfigured, 0⟩ = "-> NOT_CONFIGURED 0" := by decide

/-! ## A state and operands that meet the hypotheses of each statement -/

theorem base_rotors_good : baseRotors.r1.Good ∧ baseRotors.r2.Good ∧ baseRotors.r3.Good := by
  unfold Rotor.Good; decide

/-- The base configuration at any position is a good state. -/
theorem base_good (a b c : Letter) : (base a b c).Good where
  rotors k r h := by
    cases k with
    | r1 => cases h; exact base_rotors_good.1
    | r2 => cases h; exact base_rotors_good.2.1
    | r3 => cases h; exact base_rotors_good.2.2
  reflector t h := by
    cases h; unfold Involution NoFixedPoint; decide
  plugboard := by
    have h : ∀ x : Letter, (exchange (exchange Table.identity 0 4) 12 24).get
        ((exchange (exchange Table.identity 0 4) 12 24).get x) = x := by decide
    exact h

theorem base_loaded (a b c : Letter) :
    (base a b c).Loaded baseRotors (symbolsOf (reflectorRom 0)) := ⟨rfl, rfl⟩

theorem base_stepping (a b c : Letter) : (base a b c).BaseStepping := rfl

theorem witness_DecodeOfEncodeIsTheCommand :
    WellFormed (.ldrot .r3 (.payload 5) 31)
      ∧ ∀ p, (Instr.ldrot .r3 (.payload 5) 31).payload? = some p → p = 5 :=
  ⟨by decide, fun _ h => (Option.some.inj h).symm⟩

theorem witness_EachCommandHasOneWord : decode 0x935F 1 = .cmd (.plswp 26 31) := by decide

theorem witness_ReservedEncodingsAnswerIllegalCmd :
    (3 ≤ (3 : Field5).toNat ∧ (30 : Field5).toNat ≤ 30) ∧ 2 ≤ (2 : Field5).toNat
      ∧ 6 ≤ (6 : Field5).toNat ∧ 3 ≤ (31 : Field5).toNat := by decide

theorem witness_IllegalWordsRaiseIllegalCmd : ∀ i, decode 0 0 ≠ .cmd i := by
  intro i h
  have e : decode 0 0 = .illegal .reservedOpcode := by decide
  rw [e] at h
  cases h

theorem witness_OnlyTableLoadsReadThePayload :
    ¬(((6 : BitVec 4) = 6 ∨ (6 : BitVec 4) = 7) ∧ (2 : Field5) = 31) := by decide

theorem witness_PayloadEntriesAndTheirRange :
    25 < ((payloadTable (26 <<< 125)).get 25).toNat ∧ (25 : Field5).toNat ≤ 25 := by decide

theorem witness_StepRunsTheDecodedCommand :
    ((base 0 0 0).presentNext (.command 0x1007 0)).inbox = .command 0x1007 0 :: []
      ∧ decode 0x1007 0 = .cmd (.proc 7) := by decide

theorem witness_InteractionsAreTakenInOrder :
    (base 0 0 0).inbox = []
      ∧ runInputs (base 0 0 0) [.command 0x1007 0]
        = .next (after (runInputs (base 0 0 0) [.command 0x1007 0]) State.reset) :=
  ⟨rfl, eq_next_after (by decide) _⟩

theorem witness_IdleEngineStaysAsItIs : (base 3 4 5).inbox = [] := rfl

theorem witness_ResetSetsTheEngine :
    ((base 3 4 5).presentNext .reset).inbox = .reset :: [] := rfl

theorem witness_EveryStepKeepsTheTablesGood :
    ((base 0 0 0).presentNext (.command 0x9004 0)).Good
      ∧ goesOn (stepWord (base 0 0 0) 0x9004 0) = true :=
  ⟨⟨(base_good 0 0 0).rotors, (base_good 0 0 0).reflector, (base_good 0 0 0).plugboard⟩, by decide⟩

theorem witness_ValidBitsAreSetByLoadsAndClearedByReset :
    goesOn (stepWord State.reset 0x6410 0) = true ∧ State.reset.rotValid .r1 = false
      ∧ (after (stepWord State.reset 0x6410 0) State.reset).rotValid .r1 = true
      ∧ State.reset.refValid = false
      ∧ (after (stepWord State.reset 0x7000 0) State.reset).refValid = true
      ∧ (base 0 0 0).rotValid .r3 = true ∧ (base 0 0 0).refValid = true
      ∧ (after (step ((base 0 0 0).presentNext .reset)) (base 0 0 0)).rotValid .r3 = false
      ∧ (after (step ((base 0 0 0).presentNext .reset)) (base 0 0 0)).refValid = false := by decide

theorem witness_NoStepStopsWithTheParametersGiven : doubled.FullyGiven := rfl

theorem witness_FailingCommandsWriteNothing :
    ((base 0 0 0).presentNext (.command 0x9000 0)).inbox = .command 0x9000 0 :: []
      ∧ stepWord (base 0 0 0) 0x9000 0
        = .next (after (stepWord (base 0 0 0) 0x9000 0) State.reset)
      ∧ (after (stepWord (base 0 0 0) 0x9000 0) State.reset).responses
        = (base 0 0 0).responses ++ [⟨.duplicateLetter, 0⟩] :=
  ⟨rfl, eq_next_after (by decide) _, by decide⟩

theorem witness_ResponseWordAndItsResult :
    ((base 0 0 0).presentNext (.command 0x5019 0)).inbox = .command 0x5019 0 :: []
      ∧ goesOn (stepWord (base 0 0 0) 0x5019 0) = true
      ∧ decode 0x5019 0 = .cmd (.setall 25) ∧ ¬ReturnsValue (.setall 25) :=
  ⟨rfl, by decide, by decide, id⟩

theorem witness_StatusCodesAndWhoRaisesThem :
    WellFormed (.plswp 4 12)
      ∧ exec (.plswp 4 12) (base 0 0 0)
        = .next (after (exec (.plswp 4 12) (base 0 0 0)) State.reset)
      ∧ (after (exec (.plswp 4 12) (base 0 0 0)) State.reset).responses
        = (base 0 0 0).responses ++ [⟨.duplicateLetter, 0⟩] :=
  ⟨rfl, eq_next_after (by decide) _, by decide⟩

theorem witness_InvalidSymbolExactlyForNonLetters :
    WellFormed (.probe .pb none 26) ∧ BadSymbol (.probe .pb none 26) ∧ ¬BadSymbol (.setall 25) := by
  unfold BadSymbol; decide

theorem witness_NotConfiguredExactlyForMissingLoads :
    WellFormed (.probe .ref none 25) ∧ ¬BadSymbol (.probe .ref none 25)
      ∧ Unconfigured State.reset (.probe .ref none 25) :=
  ⟨by decide, by unfold BadSymbol; decide, .inl ⟨rfl, rfl⟩⟩

theorem witness_TableErrorsOfTheLoads :
    (25 : Field5).toNat ≤ 25 ∧ Source.rom 0 ≠ .rom 2 ∧ State.reset.given.refRom2 = true := by decide

theorem witness_LdrotLoadsTheSlot : ValidWiring (rotorSource (.rom 0)) := by
  unfold ValidWiring; decide

theorem witness_LdrefLoadsTheReflector :
    Source.rom 1 ≠ .rom 2 ∧ ValidWiring (reflectorSource (.rom 1))
      ∧ SelfInverseWithoutFixedPoint (reflectorSource (.rom 1)) := by
  unfold ValidWiring SelfInverseWithoutFixedPoint; decide

theorem witness_RomEntriesPassTheChecks :
    (1 : Fin 3) ≠ 2 ∧ State.reset.given.refRom2 = true
      ∧ exec (.ldrot .r1 (.rom 2) 25) State.reset
        = .next (after (exec (.ldrot .r1 (.rom 2) 25) State.reset) State.reset)
      ∧ exec (.ldref (.rom 1)) State.reset
        = .next (after (exec (.ldref (.rom 1)) State.reset) State.reset) :=
  ⟨by decide, rfl, eq_next_after (by decide) _, eq_next_after (by decide) _⟩

theorem witness_LoadFrame :
    goesOn (exec (.ldrot .r1 (.rom 2) 25) State.reset) = true
      ∧ goesOn (exec (.ldref (.rom 1)) State.reset) = true := by decide

theorem witness_PlswpAddsThePair :
    (1 : Letter) ≠ 2 ∧ (base 0 0 0).pb.get 1 = 1 ∧ (base 0 0 0).pb.get 2 = 2 := by decide

theorem witness_PlugboardFrame :
    goesOn (exec .plclr (base 0 0 0)) = true ∧ goesOn (exec (.plswp 1 25) (base 0 0 0)) = true
      ∧ letterBits 3 ≠ 1 ∧ letterBits 3 ≠ 25 := by decide

theorem witness_PlugboardIsItsSetOfPairs :
    goesOn (execAll [.plclr, .plswp (letterBits 0) (letterBits 4)] State.reset) = true
      ∧ (after (execAll [.plclr, .plswp (letterBits 0) (letterBits 4)] State.reset)
          State.reset).responses = State.reset.responses ++ List.replicate 2 ⟨.ok, 0⟩ := by decide

theorem witness_StepWrapsWithoutCarry :
    (base 25 25 25).off.get .r3 = 25 ∧ (baseRotors.map Rotor.turn).get .r3 ≠ 25 := by decide

theorem witness_SlowTurnoverHasNoEffect :
    (base 16 4 21).BaseStepping ∧ (base 16 4 21).rotor.r1 = some baseRotors.r1
      ∧ (∀ k, Instr.step .r3 ≠ .getcfg .turn k)
      ∧ goesOn (exec (.step .r3) (base 16 4 21)) = true :=
  ⟨rfl, rfl, (by intro k h; cases h), by decide⟩

theorem witness_StepAdvancesTheSlot :
    (base 0 4 21).rotor = ⟨some baseRotors.r1, some baseRotors.r2, some baseRotors.r3⟩
      ∧ (base 0 4 21).BaseStepping := ⟨rfl, rfl⟩

theorem witness_DoubleStepUsesTheOpenRule :
    (withoutReflector doubled).rotor = ⟨some baseRotors.r1, some baseRotors.r2, some baseRotors.r3⟩
      ∧ (withoutReflector doubled).refValid = false
      ∧ (withoutReflector doubled).dsEn.get .r2 = true
      ∧ (withoutReflector doubled).given.dsStepRule = true
      ∧ doubled.Loaded baseRotors (symbolsOf (reflectorRom 0)) ∧ doubled.dsEn.get .r2 = true
      ∧ doubled.given.dsStepRule = true := ⟨rfl, rfl, rfl, rfl, ⟨rfl, rfl⟩, rfl, rfl⟩

theorem witness_RotorShifterFrame :
    goesOn (exec (.step .r1) (base 0 0 0)) = true ∧ goesOn (exec (.step .r2) (base 0 0 0)) = true
      ∧ goesOn (exec (.setoff .r2 25) (base 0 0 0)) = true
      ∧ goesOn (exec (.getoff .r3) (base 0 0 0)) = true
      ∧ goesOn (exec (.setall 25) (base 0 0 0)) = true
      ∧ goesOn (exec (.setds .r2 true) (base 0 0 0)) = true ∧ (base 0 0 0).BaseStepping :=
  ⟨by decide, by decide, by decide, by decide, by decide, by decide, rfl⟩

theorem witness_OnlyFourCommandsWriteOffsets :
    goesOn (exec (.setall 25) (base 0 0 0)) = true
      ∧ (after (exec (.setall 25) (base 0 0 0)) State.reset).off ≠ (base 0 0 0).off := by decide

theorem witness_ProcStepsThenSubstitutes :
    (base 0 4 21).Loaded baseRotors (symbolsOf (reflectorRom 0)) ∧ (base 0 4 21).BaseStepping :=
  ⟨base_loaded 0 4 21, rfl⟩

theorem witness_AssembledEngineCannotFail :
    (base 0 0 0).rotValid .r1 = true ∧ (base 0 0 0).rotValid .r2 = true
      ∧ (base 0 0 0).rotValid .r3 = true ∧ (base 0 0 0).refValid = true
      ∧ (base 0 0 0).BaseStepping ∧ (25 : Field5).toNat ≤ 25 :=
  ⟨by decide, by decide, by decide, by decide, rfl, by decide⟩

theorem witness_FlowAndReverseFlowAreInverse : baseRotors.r1.Good := base_rotors_good.1

theorem witness_PathIsAFixedPointFreeInvolution :
    (base 0 0 1).Good ∧ (base 0 0 1).Loaded baseRotors (symbolsOf (reflectorRom 0)) :=
  ⟨base_good 0 0 1, base_loaded 0 0 1⟩

theorem witness_ProcNeverReturnsItsInput :
    (base 0 0 0).Good
      ∧ exec (.proc (letterBits 0)) (base 0 0 0)
        = .next (after (exec (.proc (letterBits 0)) (base 0 0 0)) State.reset)
      ∧ (after (exec (.proc (letterBits 0)) (base 0 0 0)) State.reset).responses
        = (base 0 0 0).responses ++ [⟨.ok, 1⟩] :=
  ⟨base_good 0 0 0, eq_next_after (by decide) _, by decide⟩

theorem witness_EngineIsReciprocal :
    (base 0 0 0).Good ∧ (base 0 0 0).Loaded baseRotors (symbolsOf (reflectorRom 0))
      ∧ (base 0 0 0).BaseStepping ∧ (base 0 0 0).inbox = []
      ∧ (base 0 0 0).SameEngine { base 0 0 0 with responses := [⟨.ok, 3⟩] } :=
  ⟨base_good 0 0 0, base_loaded 0 0 0, rfl, rfl, rfl, rfl, rfl, rfl, rfl, rfl⟩

theorem witness_OutputDependsOnlyOnEngineAndCommand :
    (base 0 0 0).SameEngine { base 0 0 0 with responses := [⟨.ok, 3⟩] }
      ∧ goesOn (exec (.proc 7) (base 0 0 0)) = true :=
  ⟨⟨rfl, rfl, rfl, rfl, rfl, rfl⟩, by decide⟩

theorem witness_ProbeEvaluatesOneStage :
    (withoutReflector (base 0 0 25)).rotor.get .r3 = some baseRotors.r3
      ∧ (withoutReflector (base 0 0 25)).refValid = false
      ∧ (withoutRotors (base 0 0 25)).ref = some (symbolsOf (reflectorRom 0))
      ∧ ∀ k, (withoutRotors (base 0 0 25)).rotValid k = false :=
  ⟨rfl, rfl, rfl, by intro k; cases k <;> rfl⟩

theorem witness_ProbeOfThePlugboardAndMisfitSlots :
    (none : Option Slot).isSome ≠ Stage.namesSlot .flow
      ∧ (some Slot.r1).isSome ≠ Stage.namesSlot .pb := by decide

theorem witness_GetcfgReadsOneRegister :
    (base 0 0 0).rotor.get .r3 = some baseRotors.r3 ∧ State.reset.rotor.get .r3 = none := ⟨rfl, rfl⟩

theorem witness_ReadsHaveNoSideEffect :
    goesOn (exec (.getoff .r1) (base 0 0 0)) = true
      ∧ goesOn (exec (.getcfg .valid none) (base 0 0 0)) = true
      ∧ goesOn (exec (.probe .pb none 25) (base 0 0 0)) = true
      ∧ (base 0 0 0).BaseStepping
      ∧ exec (.step .r1) (base 25 0 0)
        = .next (after (exec (.step .r1) (base 25 0 0)) State.reset)
      ∧ (after (exec (.step .r1) (base 25 0 0)) State.reset).responses
        = (base 25 0 0).responses ++ [⟨.ok, 0⟩] :=
  ⟨by decide, by decide, by decide, rfl, eq_next_after (by decide) _, by decide⟩

theorem witness_EngineCommandFrame :
    goesOn (exec (.proc 7) (base 0 0 0)) = true
      ∧ goesOn (exec (.probe .bwd (some .r2) 7) (base 0 0 0)) = true
      ∧ goesOn (exec (.getcfg .turn (some .r2)) (base 0 0 0)) = true := by decide

theorem witness_ProbesRecomputeProc :
    (base 0 0 0).Loaded baseRotors (symbolsOf (reflectorRom 0))
      ∧ ((base 0 0 0).BaseStepping ∨ (base 0 0 0).given.dsStepRule = true)
      ∧ doubled.Loaded baseRotors (symbolsOf (reflectorRom 0))
      ∧ (doubled.BaseStepping ∨ doubled.given.dsStepRule = true) :=
  ⟨⟨rfl, rfl⟩, .inl rfl, ⟨rfl, rfl⟩, .inr rfl⟩

end Sys2Proof.Tests
end

section
/-! What a command that goes on can do, said once (`Effect`), and from it what a step can do to the
valid bits (10_state.md R21). -/

namespace Sys2Proof.Machine

/-- What a command that answers a next state has done: it failed and only answered, it read a value
and only answered, or it wrote what its rule says and answered OK. -/
inductive Effect (s : State) : Instr → State → Prop
  | failed {i : Instr} {st : Status} (notOk : st ≠ .ok) : Effect s i (s.deliver ⟨st, 0⟩)
  | read {i : Instr} (returns : ReturnsValue i) (v : Field5) : Effect s i (s.deliver ⟨.ok, v⟩)
  | proc {rs : PerSlot Rotor} {ref : Table} {os : Offsets} (a : Letter)
      (rotors : s.rotors? = some rs) (reflector : s.ref = some ref)
      (moved : stepped rs .r3 s = .ok os) :
      Effect s (.proc (letterBits a))
        ((s.setOffsets os).deliver ⟨.ok, letterBits (path rs ref s.pb os a)⟩)
  | step {rs : PerSlot Rotor} {os : Offsets} (k : Slot)
      (rotors : s.rotors? = some rs) (moved : stepped rs k s = .ok os) :
      Effect s (.step k) ((s.setOffsets os).deliver ⟨.ok, letterBits (os.get k)⟩)
  | setoff (k : Slot) (o : Letter) :
      Effect s (.setoff k (letterBits o)) ((s.setOff k o).deliver ⟨.ok, 0⟩)
  | setall (o : Letter) :
      Effect s (.setall (letterBits o)) ((s.setOffsets (PerSlot.same o)).deliver ⟨.ok, 0⟩)
  | ldrot {src : Source} {table : Table} (k : Slot) (turn : Letter)
      (valid : wiring? (rotorSource src) = some table) :
      Effect s (.ldrot k src (letterBits turn))
        ((s.loadRotor k (rotorOf table turn)).deliver ⟨.ok, 0⟩)
  | ldref {src : Source} {table : Table} (valid : wiring? (reflectorSource src) = some table)
      (reflects : isFixedPointFreeInvolution table = true) :
      Effect s (.ldref src) ((s.loadRef table).deliver ⟨.ok, 0⟩)
  | plclr : Effect s .plclr ((s.setPb Table.identity).deliver ⟨.ok, 0⟩)
  | plswp {a b : Letter} (differ : a ≠ b) (freeA : inPair s.pb a = false)
      (freeB : inPair s.pb b = false) :
      Effect s (.plswp (letterBits a) (letterBits b))
        ((s.setPb (exchange s.pb a b)).deliver ⟨.ok, 0⟩)
  | setds (k : Slot) (en : Bool) : Effect s (.setds k en) ((s.setDs k en).deliver ⟨.ok, 0⟩)

variable {i : Instr} {s t : State}

/-- An error is the effect of a command that failed. -/
theorem Effect.of_raise {st : Status} (notOk : st ≠ .ok) (h : raise st s = .next t) :
    Effect s i t := by
  obtain rfl := raise_eq_next.mp h
  exact .failed notOk

/-- An OK answer in an unchanged state is the effect of a read. -/
theorem Effect.of_read {v : Field5} (returns : ReturnsValue i) (h : respond v s = .next t) :
    Effect s i t := by
  obtain rfl := respond_eq_next.mp h
  exact .read returns v

/-- A symbol operand fails, or the effect is that of the rest of the command at its letter. -/
theorem Effect.of_withSymbol {x : Field5} {rest : Letter → Result}
    (h : withSymbol x s rest = .next t)
    (hrest : ∀ a, x = letterBits a → rest a = .next t → Effect s i t) : Effect s i t := by
  obtain ⟨-, he⟩ | ⟨a, hx, he⟩ := withSymbol_cases (x := x) (s := s) (rest := rest)
  · exact .of_raise (by decide) (he ▸ h)
  · exact hrest a hx (he ▸ h)

theorem Effect.of_observeRotor {k : Slot} {f : Rotor → Letter} (returns : ReturnsValue i)
    (h : observeRotor k s f = .next t) : Effect s i t := by
  obtain ⟨-, he⟩ | ⟨r, -, he⟩ := observeRotor_cases k s f
  · exact .of_raise (by decide) (he ▸ h)
  · exact .of_read returns (he ▸ h)

theorem Effect.of_observeRef {f : Table → Letter} (returns : ReturnsValue i)
    (h : observeRef s f = .next t) : Effect s i t := by
  obtain ⟨-, he⟩ | ⟨r, -, he⟩ := observeRef_cases s f
  · exact .of_raise (by decide) (he ▸ h)
  · exact .of_read returns (he ▸ h)

theorem execProc_effect {x : Field5} (h : execProc x s = .next t) : Effect s (.proc x) t := by
  refine .of_withSymbol h ?_
  rintro a rfl ha
  split at ha
  case h_1 rs ref hrs href =>
    split at ha
    case h_1 why hwhy => cases ha
    case h_2 os hos =>
      obtain rfl := respond_eq_next.mp ha
      exact .proc a hrs href hos
  case h_2 => exact .of_raise (by decide) ha

theorem execStep_effect {k : Slot} (h : execStep k s = .next t) : Effect s (.step k) t := by
  unfold execStep at h
  split at h
  case h_1 => exact .of_raise (by decide) h
  case h_2 rs hrs =>
    split at h
    case h_1 why hwhy => cases h
    case h_2 os hos =>
      obtain rfl := respond_eq_next.mp h
      exact .step k hrs hos

theorem execSetoff_effect {k : Slot} {v : Field5} (h : execSetoff k v s = .next t) :
    Effect s (.setoff k v) t := by
  refine .of_withSymbol h ?_
  rintro o rfl ho
  obtain rfl := respond_eq_next.mp ho
  exact .setoff k o

theorem execSetall_effect {v : Field5} (h : execSetall v s = .next t) :
    Effect s (.setall v) t := by
  refine .of_withSymbol h ?_
  rintro o rfl ho
  obtain rfl := respond_eq_next.mp ho
  exact .setall o

theorem execLdrot_effect {k : Slot} {src : Source} {x : Field5}
    (h : execLdrot k src x s = .next t) : Effect s (.ldrot k src x) t := by
  refine .of_withSymbol h ?_
  rintro turn rfl hturn
  split at hturn
  case h_1 => exact .of_raise (by decide) hturn
  case h_2 table htable =>
    obtain rfl := respond_eq_next.mp hturn
    exact .ldrot k turn htable

theorem execLdref_effect {src : Source} (h : execLdref src s = .next t) :
    Effect s (.ldref src) t := by
  unfold execLdref at h
  split at h
  case isTrue => cases h
  case isFalse =>
    split at h
    case h_1 => exact .of_raise (by decide) h
    case h_2 table htable =>
      split at h
      case isTrue hinv =>
        obtain rfl := respond_eq_next.mp h
        exact .ldref htable hinv
      case isFalse => exact .of_raise (by decide) h

theorem execPlswp_effect {a b : Field5} (h : execPlswp a b s = .next t) :
    Effect s (.plswp a b) t := by
  refine .of_withSymbol h ?_
  rintro x rfl hx
  refine .of_withSymbol hx ?_
  rintro y rfl hy
  split at hy
  case isTrue => exact .of_raise (by decide) hy
  case isFalse hfree =>
    obtain rfl := respond_eq_next.mp hy
    obtain ⟨⟨hne, hfx⟩, hfy⟩ : (x ≠ y ∧ inPair s.pb x = false) ∧ inPair s.pb y = false := by
      simpa using hfree
    exact .plswp hne hfx hfy

theorem execProbe_effect {stage : Stage} {k : Option Slot} {x : Field5}
    (h : execProbe stage k x s = .next t) : Effect s (.probe stage k x) t := by
  unfold execProbe at h
  split at h
  case h_1 => exact .of_withSymbol h fun _ _ => .of_read trivial
  case h_4 => exact .of_withSymbol h fun _ _ => .of_observeRef trivial
  case h_2 | h_3 | h_5 | h_6 => exact .of_withSymbol h fun _ _ => .of_observeRotor trivial
  all_goals exact .of_raise (by decide) h

theorem execGetcfg_effect {item : Item} {k : Option Slot} (h : execGetcfg item k s = .next t) :
    Effect s (.getcfg item k) t := by
  unfold execGetcfg at h
  split at h
  case h_1 => exact .of_observeRotor trivial h
  case h_2 | h_3 => exact .of_read trivial h
  all_goals exact .of_raise (by decide) h

/-- Every command that goes on has one of the effects. -/
theorem exec_effect (h : exec i s = .next t) : Effect s i t := by
  cases i with
  | proc x => exact execProc_effect h
  | step k => exact execStep_effect h
  | setoff k v => exact execSetoff_effect h
  | getoff k => exact .of_read trivial h
  | setall v => exact execSetall_effect h
  | ldrot k src x => exact execLdrot_effect h
  | ldref src => exact execLdref_effect h
  | plclr =>
    obtain rfl := respond_eq_next.mp h
    exact .plclr
  | plswp a b => exact execPlswp_effect h
  | setds k en =>
    obtain rfl := respond_eq_next.mp h
    exact .setds k en
  | probe stage k x => exact execProbe_effect h
  | getcfg item k => exact execGetcfg_effect h

/-- What a step that goes on can do: idle, reset, a command's effect, or the ILLEGAL_CMD answer. -/
theorem step_next_cases (h : step s = .next t) :
    t = s
      ∨ (∃ rest, s.inbox = .reset :: rest
          ∧ t = { State.reset with given := s.given, inbox := rest, responses := s.responses })
      ∨ (∃ cw tbl rest i, s.inbox = .command cw tbl :: rest ∧ decode cw tbl = .cmd i
          ∧ Effect { s with inbox := rest } i t)
      ∨ ∃ rest, t = { s with inbox := rest }.deliver ⟨.illegalCmd, 0⟩ := by
  obtain ⟨-, he⟩ | ⟨rest, hin, he⟩ | ⟨cw, tbl, rest, i, hin, hd, he⟩ | ⟨_, _, rest, _, -, -, he⟩ :=
    step_cases s <;> rw [he] at h
  · cases h
    exact .inl rfl
  · cases h
    exact .inr (.inl ⟨rest, hin, rfl⟩)
  · exact .inr (.inr (.inl ⟨cw, tbl, rest, i, hin, hd, exec_effect h⟩))
  · exact .inr (.inr (.inr ⟨rest, raise_eq_next.mp h⟩))

/-- A command leaves `ROT_VALID[j]` as it is, or it is a successful LDROT of slot `j`, which sets it. -/
theorem Effect.rotValid_cases (h : Effect s i t) (j : Slot) :
    t.rotValid j = s.rotValid j
      ∨ t.rotValid j = true ∧ (∃ src x, i = .ldrot j src x)
        ∧ t.responses = s.responses ++ [⟨.ok, 0⟩] := by
  cases h with
  | @ldrot src table k turn =>
    by_cases hj : j = k
    · subst hj
      exact .inr ⟨by simp [State.rotValid], ⟨src, _, rfl⟩, rfl⟩
    · exact .inl (by simp [State.rotValid, PerSlot.get_set_ne _ _ hj])
  | _ => exact .inl rfl

/-- A command leaves `REF_VALID` as it is, or it is a successful LDREF, which sets it. -/
theorem Effect.refValid_cases (h : Effect s i t) :
    t.refValid = s.refValid
      ∨ t.refValid = true ∧ (∃ src, i = .ldref src) ∧ t.responses = s.responses ++ [⟨.ok, 0⟩] := by
  cases h with
  | @ldref src table => exact .inr ⟨rfl, ⟨src, rfl⟩, rfl⟩
  | _ => exact .inl rfl

/-- A step leaves `ROT_VALID[j]` as it is, or is a reset, which clears it, or a successful LDROT of
slot `j`, which sets it. -/
theorem step_rotValid_cases (h : step s = .next t) (j : Slot) :
    t.rotValid j = s.rotValid j
      ∨ (t.rotValid j = false ∧ ∃ rest, s.inbox = .reset :: rest)
      ∨ t.rotValid j = true ∧ ∃ cw tbl rest src x, s.inbox = .command cw tbl :: rest
          ∧ decode cw tbl = .cmd (.ldrot j src x) ∧ t.responses = s.responses ++ [⟨.ok, 0⟩] := by
  obtain rfl | ⟨rest, hin, rfl⟩ | ⟨cw, tbl, rest, i, hin, hd, heff⟩ | ⟨rest, rfl⟩ :=
    step_next_cases h
  · exact .inl rfl
  · exact .inr (.inl ⟨by simp [State.rotValid, State.reset], rest, hin⟩)
  · obtain hkept | ⟨hset, ⟨src, x, rfl⟩, hok⟩ := heff.rotValid_cases j
    · exact .inl hkept
    · exact .inr (.inr ⟨hset, cw, tbl, rest, src, x, hin, hd, hok⟩)
  · exact .inl rfl

/-- A step leaves `REF_VALID` as it is, or is a reset, which clears it, or a successful LDREF, which
sets it. -/
theorem step_refValid_cases (h : step s = .next t) :
    t.refValid = s.refValid
      ∨ (t.refValid = false ∧ ∃ rest, s.inbox = .reset :: rest)
      ∨ t.refValid = true ∧ ∃ cw tbl rest src, s.inbox = .command cw tbl :: rest
          ∧ decode cw tbl = .cmd (.ldref src) ∧ t.responses = s.responses ++ [⟨.ok, 0⟩] := by
  obtain rfl | ⟨rest, hin, rfl⟩ | ⟨cw, tbl, rest, i, hin, hd, heff⟩ | ⟨rest, rfl⟩ :=
    step_next_cases h
  · exact .inl rfl
  · exact .inr (.inl ⟨rfl, rest, hin⟩)
  · obtain hkept | ⟨hset, ⟨src, rfl⟩, hok⟩ := heff.refValid_cases
    · exact .inl hkept
    · exact .inr (.inr ⟨hset, cw, tbl, rest, src, hin, hd, hok⟩)
  · exact .inl rfl

/-- The bits of the VALID register (R21, R97). -/
theorem validBits_getLsbD (s : State) :
    s.validBits.getLsbD 0 = s.rotValid .r1 ∧ s.validBits.getLsbD 1 = s.rotValid .r2
      ∧ s.validBits.getLsbD 2 = s.rotValid .r3 ∧ s.validBits.getLsbD 3 = s.refValid
      ∧ s.validBits.getLsbD 4 = false := by
  unfold State.validBits
  generalize s.rotValid .r1 = a, s.rotValid .r2 = b, s.rotValid .r3 = c, s.refValid = d
  revert a b c d
  decide

/-- Settles O16: a step keeps each valid bit, or is a reset or a successful load of it
(`step_rotValid_cases`, `step_refValid_cases`), and the change seen rules the other cases out. -/
theorem validBitsAreSetByLoadsAndClearedByReset :
    Obligations.ValidBitsAreSetByLoadsAndClearedByReset := by
  intro s t h
  refine ⟨fun k hs ht => ?rotFalls, fun hs ht => ?refFalls, fun k hs ht => ?rotRises,
    fun hs ht => ?refRises, validBits_getLsbD s, rfl⟩
  case rotFalls =>
    obtain hkept | ⟨-, hreset⟩ | ⟨hset, -⟩ := step_rotValid_cases h k
    · simp [hs, ht] at hkept
    · exact hreset
    · simp [ht] at hset
  case refFalls =>
    obtain hkept | ⟨-, hreset⟩ | ⟨hset, -⟩ := step_refValid_cases h
    · simp [hs, ht] at hkept
    · exact hreset
    · simp [ht] at hset
  case rotRises =>
    obtain hkept | ⟨hclear, -⟩ | ⟨-, hload⟩ := step_rotValid_cases h k
    · simp [hs, ht] at hkept
    · simp [ht] at hclear
    · exact hload
  case refRises =>
    obtain hkept | ⟨hclear, -⟩ | ⟨-, hload⟩ := step_refValid_cases h
    · simp [hs, ht] at hkept
    · simp [ht] at hclear
    · exact hload

end Sys2Proof.Machine
end

section
/-! The host's side of the command port: no meaning reads it, so changing it commutes with executing
a command, a reset and a run (log entry 2). From this, the order of interactions (20_memory.md R41). -/

namespace Sys2Proof.Machine

/-- The same engine at another host's port: the interactions presented are those `g` gives, and the
responses `pre` had been delivered before all others. -/
def State.mapPort (g : List HostInput → List HostInput) (pre : List Response) (s : State) : State :=
  { s with inbox := g s.inbox, responses := pre ++ s.responses }

/-- A change of the next state, if there is one. -/
def onNext (f : State → State) : Result → Result
  | .next t => .next (f t)
  | .fault r => .fault r
  | .refused r => .refused r

@[simp] theorem onNext_next (f : State → State) (t : State) :
    onNext f (.next t) = .next (f t) := rfl

@[simp] theorem onNext_refused (f : State → State) (why : Refusal) :
    onNext f (.refused why) = .refused why := rfl

theorem onNext_eq_next {f : State → State} {o : Result} {u : State} :
    onNext f o = .next u ↔ ∃ t, o = .next t ∧ f t = u := by
  cases o <;> simp [onNext]

variable (g : List HostInput → List HostInput) (pre : List Response) (s : State)

@[simp] theorem mapPort_off : (s.mapPort g pre).off = s.off := rfl
@[simp] theorem mapPort_dsEn : (s.mapPort g pre).dsEn = s.dsEn := rfl
@[simp] theorem mapPort_rotor : (s.mapPort g pre).rotor = s.rotor := rfl
@[simp] theorem mapPort_ref : (s.mapPort g pre).ref = s.ref := rfl
@[simp] theorem mapPort_pb : (s.mapPort g pre).pb = s.pb := rfl
@[simp] theorem mapPort_given : (s.mapPort g pre).given = s.given := rfl
@[simp] theorem mapPort_inbox : (s.mapPort g pre).inbox = g s.inbox := rfl
@[simp] theorem mapPort_responses : (s.mapPort g pre).responses = pre ++ s.responses := rfl
@[simp] theorem mapPort_rotors? : (s.mapPort g pre).rotors? = s.rotors? := rfl
@[simp] theorem stepped_mapPort (rs : PerSlot Rotor) (k : Slot) :
    stepped rs k (s.mapPort g pre) = stepped rs k s := rfl

@[simp] theorem mapPort_deliver (r : Response) :
    (s.deliver r).mapPort g pre = (s.mapPort g pre).deliver r := by
  simp [State.mapPort, State.deliver]

theorem respond_mapPort (v : Field5) :
    respond v (s.mapPort g pre) = onNext (State.mapPort g pre) (respond v s) := by
  simp [respond]

theorem raise_mapPort (st : Status) :
    raise st (s.mapPort g pre) = onNext (State.mapPort g pre) (raise st s) := by
  simp [raise]

/-- A symbol operand is checked without the port, so it is enough that the rest ignores the port. -/
theorem withSymbol_mapPort (x : Field5) {rest rest' : Letter → Result}
    (h : ∀ a, rest' a = onNext (State.mapPort g pre) (rest a)) :
    withSymbol x (s.mapPort g pre) rest' = onNext (State.mapPort g pre) (withSymbol x s rest) := by
  unfold withSymbol
  cases letter? x with
  | none => exact raise_mapPort g pre s _
  | some a => exact h a

theorem observeRotor_mapPort (k : Slot) (f : Rotor → Letter) :
    observeRotor k (s.mapPort g pre) f
      = onNext (State.mapPort g pre) (observeRotor k s f) := by
  unfold observeRotor
  rw [mapPort_rotor]
  cases s.rotor.get k with
  | none => exact raise_mapPort g pre s _
  | some r => exact respond_mapPort g pre s _

theorem observeRef_mapPort (f : Table → Letter) :
    observeRef (s.mapPort g pre) f = onNext (State.mapPort g pre) (observeRef s f) := by
  unfold observeRef
  rw [mapPort_ref]
  cases s.ref with
  | none => exact raise_mapPort g pre s _
  | some t => exact respond_mapPort g pre s _

theorem execProc_mapPort (x : Field5) :
    execProc x (s.mapPort g pre) = onNext (State.mapPort g pre) (execProc x s) := by
  refine withSymbol_mapPort g pre s x fun a => ?_
  rw [mapPort_rotors?, mapPort_ref]
  cases s.rotors? with
  | none => exact raise_mapPort g pre s _
  | some rs =>
    cases s.ref with
    | none => exact raise_mapPort g pre s _
    | some ref =>
      simp only [stepped_mapPort]
      cases stepped rs .r3 s with
      | error why => rfl
      | ok os => exact respond_mapPort g pre (s.setOffsets os) _

theorem execStep_mapPort (k : Slot) :
    execStep k (s.mapPort g pre) = onNext (State.mapPort g pre) (execStep k s) := by
  unfold execStep
  rw [mapPort_rotors?]
  cases s.rotors? with
  | none => exact raise_mapPort g pre s _
  | some rs =>
    simp only [stepped_mapPort]
    cases stepped rs k s with
    | error why => rfl
    | ok os => exact respond_mapPort g pre (s.setOffsets os) _

theorem execLdrot_mapPort (k : Slot) (src : Source) (x : Field5) :
    execLdrot k src x (s.mapPort g pre)
      = onNext (State.mapPort g pre) (execLdrot k src x s) := by
  refine withSymbol_mapPort g pre s x fun turn => ?_
  cases wiring? (rotorSource src) with
  | none => exact raise_mapPort g pre s _
  | some table => exact respond_mapPort g pre (s.loadRotor k (rotorOf table turn)) _

theorem execLdref_mapPort (src : Source) :
    execLdref src (s.mapPort g pre) = onNext (State.mapPort g pre) (execLdref src s) := by
  unfold execLdref
  rw [mapPort_given]
  split
  case isTrue => rfl
  case isFalse =>
    cases wiring? (reflectorSource src) with
    | none => exact raise_mapPort g pre s _
    | some table =>
      simp only
      split
      case isTrue => exact respond_mapPort g pre (s.loadRef table) _
      case isFalse => exact raise_mapPort g pre s _

theorem execPlswp_mapPort (a b : Field5) :
    execPlswp a b (s.mapPort g pre) = onNext (State.mapPort g pre) (execPlswp a b s) := by
  refine withSymbol_mapPort g pre s a fun x => withSymbol_mapPort g pre s b fun y => ?_
  rw [mapPort_pb]
  split
  case isTrue => exact raise_mapPort g pre s _
  case isFalse => exact respond_mapPort g pre (s.setPb (exchange s.pb x y)) _

theorem execProbe_mapPort (stage : Stage) (k : Option Slot) (x : Field5) :
    execProbe stage k x (s.mapPort g pre)
      = onNext (State.mapPort g pre) (execProbe stage k x s) := by
  unfold execProbe
  split
  case h_1 => exact withSymbol_mapPort g pre s x fun _ => respond_mapPort g pre s _
  case h_4 => exact withSymbol_mapPort g pre s x fun _ => observeRef_mapPort g pre s _
  case h_2 | h_3 | h_5 | h_6 =>
    exact withSymbol_mapPort g pre s x fun _ => observeRotor_mapPort g pre s _ _
  all_goals exact raise_mapPort g pre s _

theorem execGetcfg_mapPort (item : Item) (k : Option Slot) :
    execGetcfg item k (s.mapPort g pre)
      = onNext (State.mapPort g pre) (execGetcfg item k s) := by
  unfold execGetcfg
  split
  case h_1 => exact observeRotor_mapPort g pre s _ _
  case h_2 | h_3 => exact respond_mapPort g pre s _
  all_goals exact raise_mapPort g pre s _

/-- No command reads or writes the port, except that it adds its response at the end. -/
theorem exec_mapPort (i : Instr) :
    exec i (s.mapPort g pre) = onNext (State.mapPort g pre) (exec i s) := by
  cases i with
  | proc x => exact execProc_mapPort g pre s x
  | step k => exact execStep_mapPort g pre s k
  | setoff k v =>
    exact withSymbol_mapPort g pre s v fun o => respond_mapPort g pre (s.setOff k o) 0
  | getoff k => exact respond_mapPort g pre s _
  | setall v =>
    exact withSymbol_mapPort g pre s v fun o =>
      respond_mapPort g pre (s.setOffsets (PerSlot.same o)) 0
  | ldrot k src x => exact execLdrot_mapPort g pre s k src x
  | ldref src => exact execLdref_mapPort g pre s src
  | plclr => exact respond_mapPort g pre (s.setPb Table.identity) 0
  | plswp a b => exact execPlswp_mapPort g pre s a b
  | setds k en => exact respond_mapPort g pre (s.setDs k en) 0
  | probe stage k x => exact execProbe_mapPort g pre s stage k x
  | getcfg item k => exact execGetcfg_mapPort g pre s item k

/-- A command takes nothing from the port. -/
theorem Effect.inbox {s t : State} {i : Instr} (h : Effect s i t) : t.inbox = s.inbox := by
  cases h <;> rfl

/-- A step takes exactly the first interaction presented. -/
theorem step_inbox {s t : State} {x : HostInput} {rest : List HostInput}
    (hin : s.inbox = x :: rest) (h : step s = .next t) : t.inbox = rest := by
  cases x with
  | reset =>
    rw [step_reset hin] at h
    cases h
    rfl
  | command cw tbl =>
    rw [step_command hin] at h
    split at h
    case h_1 i hd => exact (exec_effect h).inbox
    case h_2 why hd =>
      obtain rfl := raise_eq_next.mp h
      rfl

/-- A step that has an interaction to take does not see those presented after it: presenting `ys` is
the port map `(· ++ ys)`, with no response added. -/
theorem step_present {s : State} {x : HostInput} {rest : List HostInput}
    (hin : s.inbox = x :: rest) (ys : List HostInput) :
    step (s.present ys) = onNext (State.present · ys) (step s) := by
  have hin' : (s.present ys).inbox = x :: (rest ++ ys) := by simp [hin]
  cases x with
  | reset =>
    rw [step_reset hin, step_reset hin']
    rfl
  | command cw tbl =>
    rw [step_command hin, step_command hin']
    cases decode cw tbl with
    | cmd i => exact exec_mapPort (· ++ ys) [] { s with inbox := rest } i
    | illegal why => exact raise_mapPort (· ++ ys) [] { s with inbox := rest } _

/-- A run over everything presented empties the port, and does not see what is presented later. -/
theorem run_present {xs : List HostInput} {s t : State} (ys : List HostInput) (hin : s.inbox = xs)
    (h : Sys2Proof.core.run xs.length s = .next t) :
    t.inbox = [] ∧ Sys2Proof.core.run xs.length (s.present ys) = .next (t.present ys) := by
  induction xs generalizing s with
  | nil =>
    cases h
    exact ⟨hin, rfl⟩
  | cons x rest ih =>
    have hp := step_present hin ys
    rw [List.length_cons] at h ⊢
    cases hs : step s with
    | next u =>
      rw [hs, onNext_next] at hp
      rw [run_succ_next hs] at h
      rw [run_succ_next hp]
      exact ih (step_inbox hin hs) h
    | fault r => cases r
    | refused r => simp [Host.Core.run, Sys2Proof.core, hs] at h

/-- Settles O10: the run over `xs` takes exactly `xs` and does not see `ys` (`run_present`), which it
leaves to the run that goes on from its end (`run_add`). -/
theorem interactionsAreTakenInOrder : Obligations.InteractionsAreTakenInOrder := by
  intro s t xs ys hin h
  have hxs : (s.present xs).inbox = xs := by simp [hin]
  have happ : s.present (xs ++ ys) = (s.present xs).present ys := by
    simp [State.present]
  unfold runInputs at h ⊢
  rw [hin, List.length_nil, Nat.zero_add] at h ⊢
  obtain ⟨hempty, hrun⟩ := run_present ys hxs h
  rw [happ, List.length_append, run_add ys.length hrun, hempty, List.length_nil, Nat.zero_add]

end Sys2Proof.Machine
end

section
/-! Reads of the engine change nothing but add their response, and repeat alike; PROC and STEP move
an offset (20_memory.md R40). -/

namespace Sys2Proof.Machine

theorem mapPort_id_injective (pre : List Response) :
    Function.Injective (State.mapPort id pre) := by
  intro s t h
  cases s
  cases t
  simpa [State.mapPort] using h

/-- A command that only answered gives the same answer again, whatever was answered in between. Both
runs are the one run with no response yet delivered, seen at two ports. -/
theorem exec_deliver {i : Instr} {s : State} {r : Response} (h : exec i s = .next (s.deliver r))
    (q : Response) : exec i (s.deliver q) = .next ((s.deliver q).deliver r) := by
  obtain ⟨s₀, hs, hq⟩ : ∃ s₀ : State, s₀.mapPort id s.responses = s
      ∧ s₀.mapPort id (s.responses ++ [q]) = s.deliver q :=
    ⟨{ s with responses := [] }, by simp [State.mapPort], by simp [State.mapPort, State.deliver]⟩
  have hmap : onNext (State.mapPort id s.responses) (exec i s₀) = .next (s.deliver r) := by
    rw [← exec_mapPort, hs, h]
  obtain ⟨u, hu, hur⟩ := onNext_eq_next.mp hmap
  obtain rfl : u = s₀.deliver r := mapPort_id_injective s.responses (by simp [hur, hs])
  rw [← hq, exec_mapPort, hu, onNext_next, mapPort_deliver]

/-- GETOFF, GETCFG or PROBE. -/
def IsRead (i : Instr) : Prop :=
  (∃ k, i = .getoff k) ∨ (∃ item k, i = .getcfg item k) ∨ ∃ stage k x, i = .probe stage k x

/-- A read changes nothing but add its response. -/
theorem Effect.eq_deliver_of_isRead {i : Instr} {s t : State} (h : Effect s i t)
    (hi : IsRead i) : ∃ r, t = s.deliver r := by
  cases h with
  | failed => exact ⟨_, rfl⟩
  | read => exact ⟨_, rfl⟩
  | _ => simp [IsRead] at hi

/-- One step of a slot moves its offset by exactly 1. -/
theorem stepSlot_get_self (turn : PerSlot Letter) (k : Slot) (off : Offsets) :
    (stepSlot turn k off).get k = off.get k + 1 := by
  cases k with
  | r1 => rfl
  | r2 => rw [stepSlot_r2]; split <;> rfl
  | r3 =>
    rw [stepSlot_r3]
    split
    · exact PerSlot.get_set_self _ _ _
    · rfl

/-- Under base stepping a step moves an offset. -/
theorem stepped_ne_off {rs : PerSlot Rotor} {k : Slot} {s : State} {os : Offsets}
    (hbase : s.BaseStepping) (h : stepped rs k s = .ok os) : os ≠ s.off := by
  obtain ⟨-, he⟩ | ⟨hnot, -⟩ | ⟨hnot, -⟩ := stepped_cases rs k s
  · rw [he] at h
    cases h
    intro hsame
    have hself := stepSlot_get_self (rs.map Rotor.turn) k s.off
    rw [hsame] at hself
    simp at hself
  · exact absurd hbase hnot
  · exact absurd hbase hnot

/-- An error is not an OK response. -/
theorem raise_responses_ne_ok {st : Status} {s t : State} {y : Field5} (hst : st ≠ .ok)
    (h : raise st s = .next t) : t.responses ≠ s.responses ++ [⟨.ok, y⟩] := by
  obtain rfl := raise_eq_next.mp h
  simpa using fun hok _ => hst hok

/-- A STEP that answers OK has stepped its slot. (`Effect` does not say this: it lets every command
that returns a value be a read.) -/
theorem execStep_ok_stepped {k : Slot} {s t : State} {y : Field5} (h : execStep k s = .next t)
    (hok : t.responses = s.responses ++ [⟨.ok, y⟩]) : ∃ rs, stepped rs k s = .ok t.off := by
  unfold execStep at h
  split at h
  case h_1 => exact absurd hok (raise_responses_ne_ok (by decide) h)
  case h_2 rs hrs =>
    split at h
    case h_1 why hwhy => cases h
    case h_2 os hos =>
      obtain rfl := respond_eq_next.mp h
      exact ⟨rs, hos⟩

/-- A PROC that answers OK has stepped slot 3. -/
theorem execProc_ok_stepped {x : Field5} {s t : State} {y : Field5} (h : execProc x s = .next t)
    (hok : t.responses = s.responses ++ [⟨.ok, y⟩]) : ∃ rs, stepped rs .r3 s = .ok t.off := by
  unfold execProc at h
  obtain ⟨-, he⟩ | ⟨a, -, he⟩ := withSymbol_cases (x := x) (s := s) <;> rw [he] at h
  · exact absurd hok (raise_responses_ne_ok (by decide) h)
  · split at h
    case h_1 rs ref hrs href =>
      split at h
      case h_1 why hwhy => cases h
      case h_2 os hos =>
        obtain rfl := respond_eq_next.mp h
        exact ⟨rs, hos⟩
    case h_2 => exact absurd hok (raise_responses_ne_ok (by decide) h)

/-- Settles O58: an OK STEP or PROC has stepped a slot, which moves its offset (`stepped_ne_off`); a
read only answers (`Effect.eq_deliver_of_isRead`) and so answers alike again (`exec_deliver`). -/
theorem readsHaveNoSideEffect : Obligations.ReadsHaveNoSideEffect := by
  refine ⟨?moves, ?reads⟩
  case moves =>
    rintro i s t y hbase (⟨k, rfl⟩ | ⟨x, rfl⟩) h hok
    · obtain ⟨rs, hstep⟩ := execStep_ok_stepped h hok
      exact stepped_ne_off hbase hstep
    · obtain ⟨rs, hstep⟩ := execProc_ok_stepped h hok
      exact stepped_ne_off hbase hstep
  case reads =>
    intro i s t hi h
    obtain ⟨r, rfl⟩ := (exec_effect h).eq_deliver_of_isRead hi
    exact ⟨r, rfl, exec_deliver h r⟩

end Sys2Proof.Machine
end

section
/-! The payload is read only in LDROT and LDREF with FA = 31 (20_memory.md R32). -/

namespace Sys2Proof

/-- Only the payload source, `src` = 31, depends on the payload. -/
theorem sourceOf_payload {fa : Field5} (h : fa ≠ 31) (tbl tbl' : Payload) :
    sourceOf fa tbl = sourceOf fa tbl' := by
  unfold sourceOf
  split
  case h_4 h31 => exact absurd (BitVec.eq_of_toNat_eq h31) h
  all_goals rfl

/-- A row reads the same whatever the payload, if its operands do where the word is of that row. -/
theorem Row.read_payload {r : Row} {cw : CommandWord} {tbl tbl' : Payload}
    (h : cw &&& r.mask = r.code → r.build (fieldsOf cw) tbl = r.build (fieldsOf cw) tbl') :
    r.read cw tbl = r.read cw tbl' := by
  unfold Row.read
  split
  case isTrue hmatch => exact h hmatch
  case isFalse => rfl

/-- A word of a row whose mask covers OP has the row's OP. -/
theorem op_eq_of_matches {cw mask code : CommandWord} (h : cw &&& mask = code)
    (hmask : (fieldsOf mask).op = BitVec.allOnes 4) : (fieldsOf cw).op = (fieldsOf code).op := by
  have hand : (fieldsOf (cw &&& mask)).op = (fieldsOf cw).op &&& (fieldsOf mask).op := by
    simp only [fieldsOf, BitVec.extractLsb'_and]
  rw [← h, hand, hmask, BitVec.and_allOnes]

/-- Every row reads a word the same whatever the payload, unless it is a table load with FA = 31. -/
theorem rows_read_payload {cw : CommandWord}
    (h : ¬(((fieldsOf cw).op = 6 ∨ (fieldsOf cw).op = 7) ∧ (fieldsOf cw).fa = 31))
    (tbl tbl' : Payload) : ∀ r ∈ rows, r.read cw tbl = r.read cw tbl' := by
  simp only [rows, List.forall_mem_cons]
  refine ⟨rfl, rfl, rfl, rfl, rfl, ?ldrot, ?ldref, rfl, rfl, rfl, rfl, rfl, List.forall_mem_nil _⟩
  case ldrot =>
    refine Row.read_payload fun hmatch => ?_
    have hop : (fieldsOf cw).op = 6 := op_eq_of_matches hmatch (by decide)
    simp only [sourceOf_payload (fun hfa => h ⟨.inl hop, hfa⟩) tbl tbl']
  case ldref =>
    refine Row.read_payload fun hmatch => ?_
    have hop : (fieldsOf cw).op = 7 := op_eq_of_matches hmatch (by decide)
    simp only [sourceOf_payload (fun hfa => h ⟨.inr hop, hfa⟩) tbl tbl']

/-- A word that is no table load with FA = 31 decodes the same whatever the payload. -/
theorem decode_payload {cw : CommandWord}
    (h : ¬(((fieldsOf cw).op = 6 ∨ (fieldsOf cw).op = 7) ∧ (fieldsOf cw).fa = 31))
    (tbl tbl' : Payload) : decode cw tbl = decode cw tbl' := by
  unfold decode
  rw [← List.head?_filterMap, ← List.head?_filterMap,
    List.filterMap_congr (rows_read_payload h tbl tbl')]

/-- Settles O7: the step only decodes and executes, and the decoding is the same (`decode_payload`). -/
theorem Machine.onlyTableLoadsReadThePayload : Obligations.OnlyTableLoadsReadThePayload := by
  intro op slot fa fb tbl tbl' hload s
  have hdecode := decode_payload (cw := wordOf op slot fa fb) (by simpa using hload) tbl tbl'
  simp only [Machine.step, Machine.takeInput_presentNext, hdecode]

end Sys2Proof
end

section
/-! No command has a reserved encoding, so each of them executes as ILLEGAL_CMD (30_encoding.md R48,
R50): a word that decodes to a command is the command's own, and what is asked of the fields is read
off `encode`. -/

namespace Sys2Proof

theorem slotOf_eq_iff {b : BitVec 2} {k : Option Slot} : slotOf b = k ↔ b = slotOrNoneBits k := by
  obtain _ | _ | _ | _ := k <;> revert b <;> decide

theorem slotOf_eq_some {b : BitVec 2} {k : Slot} : slotOf b = some k ↔ b = slotBits k :=
  slotOf_eq_iff

@[simp] theorem slotOrNoneBits_slotOf (b : BitVec 2) : slotOrNoneBits (slotOf b) = b :=
  (slotOf_eq_iff.mp rfl).symm

@[simp] theorem slotBits_ne_zero (k : Slot) : slotBits k ≠ 0#2 := by
  cases k <;> decide

@[simp] theorem slotOrNoneBits_eq_zero (k : Option Slot) :
    slotOrNoneBits k = 0#2 ↔ k.isSome = false := by
  cases k with
  | none => simp [slotOrNoneBits]
  | some k => simp [slotOrNoneBits]

theorem eq_sourceBits {fa : Field5} {tbl : Payload} {src : Source}
    (h : sourceOf fa tbl = some src) : fa = sourceBits src := by
  unfold sourceOf at h
  split at h <;> cases h <;> exact BitVec.eq_of_toNat_eq ‹_›

/-- The `src` field of a source is none of the reserved values 3..30 (R50). -/
theorem sourceBits_not_reserved (src : Source) :
    ¬(3 ≤ (sourceBits src).toNat ∧ (sourceBits src).toNat ≤ 30) := by
  cases src with
  | rom k => revert k; decide
  | payload tbl => simp [sourceBits]

theorem eq_stageBits {fa : Field5} {stage : Stage} (h : stageOf fa = some stage) :
    fa = stageBits stage := by
  unfold stageOf at h
  split at h <;> cases h <;> exact BitVec.eq_of_toNat_eq ‹_›

theorem eq_itemBits {fa : Field5} {item : Item} (h : itemOf fa = some item) :
    fa = itemBits item := by
  unfold itemOf at h
  split at h <;> cases h <;> exact BitVec.eq_of_toNat_eq ‹_›

theorem onlyWellFormed_eq_some {i j : Instr} :
    onlyWellFormed i = some j ↔ i = j ∧ WellFormed j := by
  simp only [onlyWellFormed, Option.ite_none_right_eq_some, Option.some.injEq]
  exact ⟨fun ⟨hwf, h⟩ => ⟨h, h ▸ hwf⟩, fun ⟨h, hwf⟩ => ⟨h ▸ hwf, h⟩⟩

theorem Row.read_eq_some {r : Row} {cw : CommandWord} {tbl : Payload} {i : Instr} :
    r.read cw tbl = some i ↔ cw &&& r.mask = r.code ∧ r.build (fieldsOf cw) tbl = some i := by
  simp only [Row.read, Option.ite_none_right_eq_some]

/-- A mask and a code ask of a word what their fields ask of its fields. -/
theorem wordOf_matches_fields {op : BitVec 4} {slot : BitVec 2} {fa fb : Field5}
    {mask code : CommandWord} :
    wordOf op slot fa fb &&& mask = code ↔
      op &&& (fieldsOf mask).op = (fieldsOf code).op
        ∧ slot &&& (fieldsOf mask).slot = (fieldsOf code).slot
        ∧ fa &&& (fieldsOf mask).fa = (fieldsOf code).fa
        ∧ fb &&& (fieldsOf mask).fb = (fieldsOf code).fb :=
  wordOf_matches (wordOf_fieldsOf code).symm (wordOf_fieldsOf mask).symm

/-- A mask that covers a whole field keeps the field. -/
theorem and_fullMask : (∀ x : BitVec 4, x &&& 15#4 = x) ∧ (∀ x : BitVec 2, x &&& 3#2 = x)
    ∧ ∀ x : Field5, x &&& 31#5 = x :=
  ⟨fun _ => BitVec.and_allOnes, fun _ => BitVec.and_allOnes, fun _ => BitVec.and_allOnes⟩

/-- SETDS's FB field, whose bits 4:1 must be zero, is its enable bit. -/
theorem eq_enableBits : ∀ fb : Field5, fb &&& 30#5 = 0#5 → fb = if fb[0] then 1 else 0 := by
  decide

/-- What a row reads from a word is a well-formed command, and the word is the command's own: the
row's mask and code fix the fields that are no operands, and `build` reads each operand from the
field that `encode` puts it in. -/
theorem encode_of_mem_rows {op : BitVec 4} {slot : BitVec 2} {fa fb : Field5} {tbl : Payload}
    {i : Instr} : ∀ r ∈ rows, r.read (wordOf op slot fa fb) tbl = some i →
      encode i = wordOf op slot fa fb ∧ WellFormed i := by
  simp only [rows, List.forall_mem_cons, Row.read_eq_some, wordOf_matches_fields, fieldsOf_wordOf]
  simp only [fieldsOf, BitVec.ofNat_eq_ofNat, BitVec.reduceExtractLsb', and_fullMask,
    BitVec.and_zero, true_and, and_true, and_imp, Option.some.injEq, Option.map_eq_some_iff,
    Option.bind_eq_some_iff, slotOf_eq_some, onlyWellFormed_eq_some, forall_exists_index]
  refine ⟨?proc, ?step, ?setoff, ?getoff, ?setall, ?ldrot, ?ldref, ?plclr, ?plswp, ?setds, ?probe,
    ?getcfg, List.forall_mem_nil _⟩
  case proc | setall => rintro rfl rfl rfl rfl; exact ⟨rfl, rfl⟩
  case step | getoff => rintro rfl rfl rfl k rfl rfl; exact ⟨rfl, rfl⟩
  case setoff => rintro rfl rfl k rfl rfl; exact ⟨rfl, rfl⟩
  case plclr => rintro rfl rfl rfl rfl rfl; exact ⟨rfl, rfl⟩
  case plswp => rintro rfl rfl rfl; exact ⟨rfl, rfl⟩
  case ldrot =>
    rintro rfl k rfl src hsrc rfl
    obtain rfl := eq_sourceBits hsrc
    exact ⟨rfl, rfl⟩
  case ldref =>
    rintro rfl rfl rfl src hsrc rfl
    obtain rfl := eq_sourceBits hsrc
    exact ⟨rfl, rfl⟩
  case setds =>
    rintro rfl rfl hfb k rfl rfl
    exact ⟨wordOf_injective.mpr ⟨rfl, rfl, rfl, (eq_enableBits fb hfb).symm⟩, rfl⟩
  case probe =>
    rintro rfl stage hstage rfl hwf
    obtain rfl := eq_stageBits hstage
    exact ⟨by simp [encode], hwf⟩
  case getcfg =>
    rintro rfl rfl item hitem rfl hwf
    obtain rfl := eq_itemBits hitem
    exact ⟨by simp [encode], hwf⟩

/-- A word that decodes to a command is that command's own word, and the command is well formed. -/
theorem encode_of_decode {cw : CommandWord} {tbl : Payload} {i : Instr}
    (h : decode cw tbl = .cmd i) : encode i = cw ∧ WellFormed i := by
  unfold decode at h
  split at h
  case h_1 j hj =>
    cases h
    obtain ⟨r, hr, hread⟩ := List.exists_of_findSome?_eq_some hj
    rw [← wordOf_fieldsOf cw] at hread ⊢
    exact encode_of_mem_rows r hr hread
  case h_2 => cases h

namespace Machine

/-- A word that is no command adds the answer ILLEGAL_CMD and changes nothing else (R99). -/
theorem step_of_not_cmd {cw : CommandWord} {tbl : Payload} (h : ∀ i, decode cw tbl ≠ .cmd i)
    (s : State) :
    step (s.presentNext (.command cw tbl)) = .next (s.answering .illegalCmd 0) := by
  rw [step_command (presentNext_inbox s _)]
  split
  case h_1 i hd => exact absurd hd (h i)
  case h_2 => rfl

/-- Settles O5: a word that decodes to a command has the fields that `encode` gives it
(`encode_of_decode`), and none of them is reserved; so a reserved word is no command. -/
theorem reservedEncodingsAnswerIllegalCmd : Obligations.ReservedEncodingsAnswerIllegalCmd := by
  intro s op slot fa fb tbl hreserved
  refine step_of_not_cmd (fun i hd => ?_) s
  obtain ⟨hword, hwf⟩ := encode_of_decode hd
  cases i <;> obtain ⟨rfl, rfl, rfl, rfl⟩ := wordOf_injective.mp hword
  case proc | step | setoff | getoff | setall | plclr | plswp => simp at hreserved
  case ldrot k src x => simp [sourceBits_not_reserved src] at hreserved
  case ldref src => simp [sourceBits_not_reserved src] at hreserved
  case setds k en => cases en <;> simp at hreserved
  case probe stage k x =>
    have hslot : k.isSome = stage.namesSlot := beq_iff_eq.mp hwf
    cases stage <;> simp [stageBits, hslot, Stage.namesSlot] at hreserved
  case getcfg item k =>
    have hslot : k.isSome = item.namesSlot := beq_iff_eq.mp hwf
    cases item <;> simp [itemBits, hslot, Item.namesSlot] at hreserved

end Machine

end Sys2Proof
end

section
/-! The response word, and what its RESULT field may hold (30_encoding.md R45). -/

namespace Sys2Proof.Machine

theorem Response.word_status (r : Response) : r.word.extractLsb' 5 3 = r.status.code :=
  BitVec.extractLsb'_append_eq_left

theorem Response.word_result (r : Response) : r.word.extractLsb' 0 5 = r.result :=
  BitVec.extractLsb'_append_eq_right

/-- A command delivers one response, with RESULT 0 unless it answers OK with a value. -/
theorem Effect.response {i : Instr} {s t : State} (h : Effect s i t) :
    ∃ r, t.responses = s.responses ++ [r] ∧ (r.status ≠ .ok → r.result = 0)
      ∧ (¬ReturnsValue i → r.result = 0) := by
  cases h with
  | failed => exact ⟨_, rfl, fun _ => rfl, fun _ => rfl⟩
  | read returns => exact ⟨_, rfl, absurd rfl, absurd returns⟩
  | proc | step => exact ⟨_, rfl, absurd rfl, absurd trivial⟩
  | _ => exact ⟨_, rfl, fun _ => rfl, fun _ => rfl⟩

/-- Settles O20: the fields of the word are those it was made of, and a step over a command word
either answers as its command does (`Effect.response`) or raises ILLEGAL_CMD with RESULT 0. -/
theorem responseWordAndItsResult : Obligations.ResponseWordAndItsResult := by
  refine ⟨fun r => ⟨r.word_status, r.word_result⟩, ?_⟩
  intro s t cw tbl rest hin h
  rw [step_command hin] at h
  split at h
  case h_1 i hd =>
    obtain ⟨r, hr, herr, hnone⟩ := (exec_effect h).response
    refine ⟨r, hr, herr, fun j hj => ?_⟩
    obtain rfl : i = j := Decoded.cmd.inj (hd.symm.trans hj)
    exact hnone
  case h_2 =>
    obtain rfl := raise_eq_next.mp h
    exact ⟨_, rfl, fun _ => rfl, fun _ _ _ => rfl⟩

end Sys2Proof.Machine
end

section
/-! The table checks of LDROT and LDREF, and the ROM entries they never reject
(40_permutation_reflector.md R55, R57, R58, R59, R61). -/

namespace Sys2Proof.Machine

/-- A raw entry is the number of a letter exactly when the table of symbols has that letter. -/
theorem toNat_get_eq_iff {u : Table} {t : RawTable} (h : SameEntries u t) (i j : Letter) :
    (t.get i).toNat = j.val ↔ u.get i = j := by
  rw [← h i, Fin.ext_iff]

/-- R57's words about the raw table say that its table of symbols is an involution without a fixed
point. -/
theorem selfInverseWithoutFixedPoint_iff {u : Table} {t : RawTable} (h : SameEntries u t) :
    SelfInverseWithoutFixedPoint t ↔ Involution u ∧ NoFixedPoint u := by
  simp only [SelfInverseWithoutFixedPoint, toNat_get_eq_iff h, forall_eq', forall_and, Involution,
    NoFixedPoint, ne_comm]

/-- What LDREF's two extra checks test of a valid wiring. -/
theorem isFixedPointFreeInvolution_symbolsOf {t : RawTable} (h : ValidWiring t) :
    isFixedPointFreeInvolution (symbolsOf t) = true ↔ SelfInverseWithoutFixedPoint t :=
  (isFixedPointFreeInvolution_iff _).trans
    (selfInverseWithoutFixedPoint_iff (symbolsOf_sameEntries h.1)).symm

theorem isOpenSource_iff {src : Source} : isOpenSource src = true ↔ src = .rom 2 := by
  cases src <;> simp [isOpenSource]

/-- Where the model has the content of its source, LDREF answers as the checks of R55 and R57 say,
in that order (R59, R106). -/
theorem execLdref_cases {src : Source} {s : State}
    (hgiven : src ≠ .rom 2 ∨ s.given.refRom2 = true) :
    (¬ValidWiring (reflectorSource src) ∧ execLdref src s = raise .invalidWiring s)
      ∨ (ValidWiring (reflectorSource src) ∧ ¬SelfInverseWithoutFixedPoint (reflectorSource src)
          ∧ execLdref src s = raise .invalidReflector s)
      ∨ (ValidWiring (reflectorSource src) ∧ SelfInverseWithoutFixedPoint (reflectorSource src)
          ∧ execLdref src s = respond 0 (s.loadRef (symbolsOf (reflectorSource src)))) := by
  have hopen : ¬(isOpenSource src && !s.given.refRom2) = true := by
    rw [Bool.and_eq_true, isOpenSource_iff, Bool.not_eq_true']
    rintro ⟨hsrc, hno⟩
    simp [hsrc, hno] at hgiven
  rw [execLdref, if_neg hopen]
  by_cases hvalid : ValidWiring (reflectorSource src)
  · rw [wiring?_eq_some.mpr ⟨hvalid, rfl⟩]
    dsimp only
    by_cases hself : SelfInverseWithoutFixedPoint (reflectorSource src)
    · exact .inr (.inr ⟨hvalid, hself,
        if_pos ((isFixedPointFreeInvolution_symbolsOf hvalid).mpr hself)⟩)
    · exact .inr (.inl ⟨hvalid, hself,
        if_neg (mt (isFixedPointFreeInvolution_symbolsOf hvalid).mp hself)⟩)
  · rw [wiring?_eq_none.mpr hvalid]
    exact .inl ⟨hvalid, rfl⟩

/-- LDROT of a valid wiring either raises INVALID_SYMBOL for its turnover or loads the slot
(R58). -/
theorem execLdrot_cases_of_valid {src : Source} (h : ValidWiring (rotorSource src)) (k : Slot)
    (x : Field5) (s : State) :
    (25 < x.toNat ∧ execLdrot k src x s = raise .invalidSymbol s)
      ∨ ∃ a, x = letterBits a ∧ execLdrot k src x s
          = respond 0 (s.loadRotor k (rotorOf (symbolsOf (rotorSource src)) a)) := by
  simpa only [execLdrot, wiring?_eq_some.mpr ⟨h, rfl⟩] using
    withSymbol_cases (x := x) (s := s)
      (rest := fun a => respond 0 (s.loadRotor k (rotorOf (symbolsOf (rotorSource src)) a)))

/-- The one response after a `respond` is OK with its result. -/
theorem response_of_respond {v : Field5} {s u t : State} {r : Response}
    (h : respond v u = .next t) (hu : u.responses = s.responses)
    (ht : t.responses = s.responses ++ [r]) : r = ⟨.ok, v⟩ := by
  rw [respond_eq_next.mp h, deliver_responses, hu] at ht
  simpa using ht.symm

/-- The one response after a `raise` is its status with RESULT 0. -/
theorem response_of_raise {st : Status} {s t : State} {r : Response}
    (h : raise st s = .next t) (ht : t.responses = s.responses ++ [r]) : r = ⟨st, 0⟩ := by
  rw [raise_eq_next.mp h, deliver_responses] at ht
  simpa using ht.symm

theorem raise_eq_answering {st st' : Status} {s : State} :
    raise st s = .next (s.answering st' 0) ↔ st = st' := by
  constructor
  · intro h
    have hr : (⟨st', 0⟩ : Response) = ⟨st, 0⟩ := response_of_raise h rfl
    exact (congrArg Response.status hr).symm
  · rintro rfl
    rfl

theorem respond_ne_answering {v w : Field5} {st : Status} {s u : State} (hst : st ≠ .ok)
    (hu : u.responses = s.responses) : respond v u ≠ .next (s.answering st w) := fun h =>
  have hr : (⟨st, w⟩ : Response) = ⟨.ok, v⟩ := response_of_respond h hu rfl
  hst (congrArg Response.status hr)

/-- R102 and R101 for LDREF, for every source whose content the model has. -/
theorem execLdref_tableErrors {src : Source} {s : State}
    (hgiven : src ≠ .rom 2 ∨ s.given.refRom2 = true) :
    (execLdref src s = .next (s.answering .invalidWiring 0)
        ↔ ¬ValidWiring (reflectorSource src))
      ∧ (execLdref src s = .next (s.answering .invalidReflector 0)
        ↔ ValidWiring (reflectorSource src)
          ∧ ¬SelfInverseWithoutFixedPoint (reflectorSource src)) := by
  obtain ⟨hvalid, h⟩ | ⟨hvalid, hself, h⟩ | ⟨hvalid, hself, h⟩ := execLdref_cases hgiven
  · simp only [h, raise_eq_answering, hvalid, reduceCtorEq, not_false_eq_true, false_and, and_self]
  · simp only [h, raise_eq_answering, hvalid, hself, reduceCtorEq, not_true, not_false_eq_true,
      and_self]
  · rw [h]
    exact ⟨iff_of_false (respond_ne_answering (by decide) rfl) (not_not_intro hvalid),
      iff_of_false (respond_ne_answering (by decide) rfl) fun hbad => hbad.2 hself⟩

theorem rotorRom_valid (k : Fin 3) : ValidWiring (rotorRom k) := by
  rw [← isPerm_iff]
  match k with
  | 0 => decide
  | 1 => decide
  | 2 => decide

/-- The two fixed entries of the reflector ROM are valid reflectors (R61). -/
theorem reflectorRom_valid {k : Fin 3} (hk : k ≠ 2) :
    ValidWiring (reflectorRom k) ∧ SelfInverseWithoutFixedPoint (reflectorRom k) := by
  unfold ValidWiring SelfInverseWithoutFixedPoint
  match k with
  | 0 => decide
  | 1 => decide
  | 2 => exact absurd rfl hk

/-- Settles O28: the fixed entries are checked letter by letter, and a load of a valid table can
only complete or reject its turnover; entry 2 is a source like any other
(`execLdref_tableErrors`). -/
theorem romEntriesPassTheChecks : Obligations.RomEntriesPassTheChecks := by
  refine ⟨rotorRom_valid, fun _ hk => reflectorRom_valid hk, fun s t r ht => ⟨?_, ?_⟩,
    fun s hgiven => execLdref_tableErrors (.inr hgiven)⟩
  · intro j k x h
    obtain ⟨-, hx⟩ | ⟨a, -, ha⟩ := execLdrot_cases_of_valid (src := .rom k) (rotorRom_valid k) j x s
    · obtain rfl := response_of_raise (hx.symm.trans h) ht
      decide
    · obtain rfl := response_of_respond (ha.symm.trans h) rfl ht
      decide
  · intro k hk h
    obtain ⟨hvalid, hself⟩ := reflectorRom_valid hk
    have hsrc : Source.rom k ≠ .rom 2 := mt Source.rom.inj hk
    obtain ⟨hno, -⟩ | ⟨-, hno, -⟩ | ⟨-, -, hload⟩ := execLdref_cases (s := s) (.inl hsrc)
    · exact absurd hvalid hno
    · exact absurd hself hno
    · obtain rfl := response_of_respond (hload.symm.trans h) rfl ht
      decide

end Sys2Proof.Machine
end

section
/-! PLCLR and a list of PLSWP commands that all answer OK: what they leave in the plugboard
(41_plugboard.md R63, R64, R67). -/

namespace Sys2Proof.Machine

variable {s t : State} {i : Instr} {rest : List Instr} {pb pb' : Table} {a b : Letter}

theorem execAll_cons_eq_next :
    execAll (i :: rest) s = .next t ↔ ∃ u, exec i s = .next u ∧ execAll rest u = .next t := by
  cases h : exec i s <;> simp [execAll, h]

/-- Commands never withdraw a response. -/
theorem execAll_responses_prefix {is : List Instr} (h : execAll is s = .next t) :
    s.responses <+: t.responses := by
  induction is generalizing s with
  | nil =>
    cases h
    exact List.prefix_rfl
  | cons i rest ih =>
    obtain ⟨u, hi, hrest⟩ := execAll_cons_eq_next.mp h
    obtain ⟨r, hr, -⟩ := (exec_effect hi).response
    exact (hr ▸ List.prefix_append _ _).trans (ih hrest)

/-- If all the responses are `r`, then the first command answered `r` and the others did so after
it. -/
theorem execAll_cons_replicate {n : Nat} {r : Response} (h : execAll (i :: rest) s = .next t)
    (hall : t.responses = s.responses ++ List.replicate (n + 1) r) :
    ∃ u, exec i s = .next u ∧ u.responses = s.responses ++ [r] ∧ execAll rest u = .next t
      ∧ t.responses = u.responses ++ List.replicate n r := by
  obtain ⟨u, hi, hrest⟩ := execAll_cons_eq_next.mp h
  obtain ⟨q, hq, -⟩ := (exec_effect hi).response
  obtain ⟨later, hlater⟩ := execAll_responses_prefix hrest
  obtain ⟨rfl, rfl⟩ : q = r ∧ later = List.replicate n r := by
    simpa [← hlater, hq, List.replicate_succ] using hall
  exact ⟨u, hi, hq, hrest, hlater.symm⟩

/-- A PLSWP that answers OK exchanged two different letters that were in no pair (R64). -/
theorem Effect.plswp_of_ok {x y v : Field5} (h : Effect s (.plswp x y) t)
    (hok : t.responses = s.responses ++ [⟨.ok, v⟩]) :
    ∃ a b, x = letterBits a ∧ y = letterBits b ∧ a ≠ b ∧ s.pb.get a = a ∧ s.pb.get b = b
      ∧ t.pb = exchange s.pb a b := by
  cases h with
  | failed notOk => exact absurd hok (raise_responses_ne_ok notOk rfl)
  | read returns => exact returns.elim
  | @plswp a b differ freeA freeB =>
    exact ⟨a, b, rfl, rfl, differ, inPair_eq_false.mp freeA, inPair_eq_false.mp freeB, rfl⟩

theorem exchange_get_of_ne {x : Letter} (ha : x ≠ a) (hb : x ≠ b) :
    (exchange pb a b).get x = pb.get x := by
  rw [exchange_get, if_neg hb, if_neg ha]

/-- `pb'` is `pb` with the pairs added: they are swapped, and every letter outside them keeps its
image, as does every letter that `pb` already has in a pair. -/
structure AddsPairs (pairs : List (Letter × Letter)) (pb pb' : Table) : Prop where
  swapped : ∀ p ∈ pairs, pb'.get p.1 = p.2 ∧ pb'.get p.2 = p.1
  kept : ∀ x, (∀ p ∈ pairs, x ≠ p.1 ∧ x ≠ p.2) → pb'.get x = pb.get x
  keptPaired : ∀ x, pb.get x ≠ x → pb'.get x = pb.get x

theorem AddsPairs.nil : AddsPairs [] pb pb := ⟨List.forall_mem_nil _, fun _ _ => rfl, fun _ _ => rfl⟩

/-- Two unpaired letters are exchanged before the other pairs are added: these leave the two letters
swapped, since both are now in a pair. -/
theorem AddsPairs.cons {pairs : List (Letter × Letter)} (differ : a ≠ b) (freeA : pb.get a = a)
    (freeB : pb.get b = b) (h : AddsPairs pairs (exchange pb a b) pb') :
    AddsPairs ((a, b) :: pairs) pb pb' := by
  have hgetA : (exchange pb a b).get a = b := by simp [exchange_get, differ, freeB]
  have hgetB : (exchange pb a b).get b = a := by simp [exchange_get, freeA]
  refine ⟨List.forall_mem_cons.mpr ⟨⟨?_, ?_⟩, h.swapped⟩, fun x hx => ?_, fun x hx => ?_⟩
  · exact (h.keptPaired a (hgetA.trans_ne differ.symm)).trans hgetA
  · exact (h.keptPaired b (hgetB.trans_ne differ)).trans hgetB
  · obtain ⟨⟨hxa, hxb⟩, hxs⟩ := List.forall_mem_cons.mp hx
    exact (h.kept x hxs).trans (exchange_get_of_ne hxa hxb)
  · have hsame : (exchange pb a b).get x = pb.get x := exchange_get_of_ne
      (fun hxa => hx (hxa ▸ freeA)) (fun hxb => hx (hxb ▸ freeB))
    exact (h.keptPaired x (hsame.trans_ne hx)).trans hsame

/-- PLSWP commands that all answer OK add their pairs. -/
theorem execAll_plswp_addsPairs {pairs : List (Letter × Letter)}
    (h : execAll (pairs.map fun p => .plswp (letterBits p.1) (letterBits p.2)) s = .next t)
    (hok : t.responses = s.responses ++ List.replicate pairs.length ⟨.ok, 0⟩) :
    AddsPairs pairs s.pb t.pb := by
  induction pairs generalizing s with
  | nil =>
    cases h
    exact .nil
  | cons p pairs ih =>
    obtain ⟨u, hp, hpok, hrest, hrestok⟩ := execAll_cons_replicate h hok
    obtain ⟨a, b, ha, hb, differ, freeA, freeB, hpb⟩ := (exec_effect hp).plswp_of_ok hpok
    obtain rfl : p = (a, b) := Prod.ext (letterBits_injective ha) (letterBits_injective hb)
    exact .cons differ freeA freeB (hpb ▸ ih hrest hrestok)

/-- Settles O33: PLCLR leaves the identity, and the PLSWP commands add their pairs to it
(`execAll_plswp_addsPairs`). -/
theorem plugboardIsItsSetOfPairs : Obligations.PlugboardIsItsSetOfPairs := by
  intro pairs s t h hok
  obtain ⟨u, hclear, -, hrest, hrestok⟩ := execAll_cons_replicate h hok
  obtain rfl := respond_eq_next.mp hclear
  have hadds : AddsPairs pairs Table.identity t.pb := execAll_plswp_addsPairs hrest hrestok
  exact ⟨hadds.swapped, fun x hx => (hadds.kept x hx).trans (Table.identity_get x)⟩

end Sys2Proof.Machine
end

section
/-! Which commands write an offset (42_rotor_shifter.md R84). -/

namespace Sys2Proof.Machine

/-- Settles O47: of the effects a command can have, only those of the four write `off`. -/
theorem onlyFourCommandsWriteOffsets : Obligations.OnlyFourCommandsWriteOffsets := by
  intro i s t h moved
  cases exec_effect h with
  | step k => exact .inl ⟨k, rfl⟩
  | proc a => exact .inr (.inl ⟨_, rfl⟩)
  | setoff k o => exact .inr (.inr (.inl ⟨k, _, rfl⟩))
  | setall o => exact .inr (.inr (.inr ⟨_, rfl⟩))
  | failed | read | ldrot | ldref | plclr | plswp | setds => exact absurd rfl moved

end Sys2Proof.Machine
end

section
/-! One step of a slot under base stepping: the simultaneous update, the wrap and the bounds
(42_rotor_shifter.md R71, R72, R74). -/

namespace Sys2Proof.Machine

/-- Settles O34: slot 1 never carries (`stepSlot_r1`), slot 2 carries at its turnover
(`stepSlot_r2`), and slot 3 carries into a step of slot 2 (`stepSlot_r3`). -/
theorem stepIsTheSimultaneousUpdate : Obligations.StepIsTheSimultaneousUpdate := by
  intro turn off c3 c32 c2
  refine ⟨?fast, ?middle, stepSlot_r1 turn off⟩
  case middle =>
    rw [stepSlot_r2]
    by_cases h2 : off.r2 = turn.r2 <;> simp [c2, h2]
  case fast =>
    rw [stepSlot_r3, stepSlot_r2]
    by_cases h3 : off.r3 = turn.r3
    · by_cases h2 : off.r2 = turn.r2 <;> simp [c3, c32, h3, h2, PerSlot.set]
    · simp [c3, c32, h3]

/-- Away from its turnover a slot steps alone. -/
theorem stepSlot_of_ne_turn {turn : PerSlot Letter} {k : Slot} {off : Offsets}
    (h : off.get k ≠ turn.get k) : stepSlot turn k off = off.set k (off.get k + 1) := by
  cases k with
  | r1 => exact stepSlot_r1 turn off
  | r2 => exact (stepSlot_r2 turn off).trans (if_neg h)
  | r3 => exact (stepSlot_r3 turn off).trans (if_neg h)

/-- Settles O35: the slot itself moves by 1 (`stepSlot_get_self`), and from 25 that is to 0; where 25
is not its turnover it steps alone (`stepSlot_of_ne_turn`). -/
theorem stepWrapsWithoutCarry : Obligations.StepWrapsWithoutCarry := by
  intro turn off k hz
  refine ⟨?wraps, fun hturn j hj => ?alone⟩
  case wraps =>
    rw [stepSlot_get_self, hz]
    rfl
  case alone =>
    rw [stepSlot_of_ne_turn (hz.trans_ne hturn.symm), PerSlot.get_set_ne _ _ hj]

/-- A carry adds 0 or 1. -/
theorem add_carry_cases (x : Letter) (p : Prop) [Decidable p] :
    x + (if p then 1 else 0) = x ∨ x + (if p then 1 else 0) = x + 1 := by
  split
  · exact .inr rfl
  · exact .inl (add_zero x)

/-- Settles O37: in the simultaneous update each offset stays, gets a carry (`add_carry_cases`) or
moves by 1, and slot 2's carry in a step of slot 3 is the test at slot 3's turnover. -/
theorem stepMovesEachSlotByAtMostOne : Obligations.StepMovesEachSlotByAtMostOne := by
  intro turn off k
  obtain ⟨fast, middle, slow⟩ := stepIsTheSimultaneousUpdate turn off
  refine ⟨fun j => ?atMostOne, by rw [slow], by rw [slow], by rw [middle], ?carry⟩
  case carry => simp [fast]
  case atMostOne =>
    cases k with
    | r1 =>
      rw [slow]
      cases j with
      | r1 => exact .inr rfl
      | r2 | r3 => exact .inl rfl
    | r2 =>
      rw [middle]
      cases j with
      | r1 => exact add_carry_cases _ _
      | r2 => exact .inr rfl
      | r3 => exact .inl rfl
    | r3 =>
      rw [fast]
      cases j with
      | r1 | r2 => exact add_carry_cases _ _
      | r3 => exact .inr rfl

end Sys2Proof.Machine
end

section
/-! The flow through one rotor and the reverse flow undo each other (42_rotor_shifter.md R77). -/

namespace Sys2Proof.Machine

theorem rflow_flow {r : Rotor} (h : r.Good) (o x : Letter) : rflow r o (flow r o x) = x := by
  rw [flow, rflow, sub_add_cancel, h.1, add_sub_cancel_right]

theorem flow_rflow {r : Rotor} (h : r.Good) (o x : Letter) : flow r o (rflow r o x) = x := by
  rw [flow, rflow, sub_add_cancel, h.2, add_sub_cancel_right]

/-- Settles O50: between the two lookups the shift that one flow undoes is the shift that the other
applies, so the lookups meet and cancel (`rflow_flow`, `flow_rflow`). -/
theorem flowAndReverseFlowAreInverse : Obligations.FlowAndReverseFlowAreInverse :=
  fun _ o x h => ⟨rfl, rflow_flow h o x, flow_rflow h o x⟩

end Sys2Proof.Machine
end

section
/-! Response and next engine state depend only on the engine state and the command (43_machine.md
R94). -/

namespace Sys2Proof.Machine

/-- Two states with the same engine are the one engine, with no response yet delivered, seen at two
ports. -/
theorem State.SameEngine.exists_mapPort {s u : State} (h : s.SameEngine u) :
    ∃ s₀ : State, s₀.responses = [] ∧ s₀.mapPort id s.responses = s
      ∧ s₀.mapPort (fun _ => u.inbox) u.responses = u := by
  obtain ⟨hoff, hds, hrot, href, hpb, hgiven⟩ := h
  refine ⟨{ s with responses := [] }, rfl, ?_, ?_⟩
  · simp [State.mapPort]
  · simp [State.mapPort, ← hoff, ← hds, ← hrot, ← href, ← hpb, ← hgiven]

/-- Settles O54: both states are one engine at two ports (`SameEngine.exists_mapPort`), and a command
commutes with a change of the port (`exec_mapPort`), so both runs are one run seen at the two
ports. -/
theorem outputDependsOnlyOnEngineAndCommand :
    Obligations.OutputDependsOnlyOnEngineAndCommand := by
  intro i s u t hsame h
  obtain ⟨s₀, hempty, hs, hu⟩ := hsame.exists_mapPort
  have hmap : onNext (State.mapPort id s.responses) (exec i s₀) = .next t := by
    rw [← exec_mapPort, hs, h]
  obtain ⟨t₀, ht₀, rfl⟩ := onNext_eq_next.mp hmap
  obtain ⟨r, hr, -⟩ := (exec_effect ht₀).response
  rw [hempty, List.nil_append] at hr
  have hport := exec_mapPort (fun _ => u.inbox) u.responses s₀ i
  rw [hu, ht₀] at hport
  exact ⟨_, r, hport, ⟨rfl, rfl, rfl, rfl, rfl, rfl⟩, by simp [hr], by simp [hr]⟩

end Sys2Proof.Machine
end

section
/-! PROC on an assembled engine: it cannot fail, its path is an involution without a fixed point, and
runs of it are reciprocal (43_machine.md R88 to R91). -/

namespace Sys2Proof.Machine

variable {s t : State} {rs : PerSlot Rotor} {ref pb : Table} {off os : Offsets}

/-- The four valid bits say that there are three rotors and a reflector. -/
theorem exists_loaded (hrot : ∀ k, s.rotValid k = true) (href : s.refValid = true) :
    ∃ rs ref, s.Loaded rs ref := by
  obtain ⟨r1, h1⟩ := Option.isSome_iff_exists.mp (hrot .r1)
  obtain ⟨r2, h2⟩ := Option.isSome_iff_exists.mp (hrot .r2)
  obtain ⟨r3, h3⟩ := Option.isSome_iff_exists.mp (hrot .r3)
  obtain ⟨t, ht⟩ := Option.isSome_iff_exists.mp href
  exact ⟨⟨r1, r2, r3⟩, t, by rw [← h1, ← h2, ← h3]; rfl, ht⟩

theorem State.Loaded.rotor_get (h : s.Loaded rs ref) (k : Slot) :
    s.rotor.get k = some (rs.get k) := by
  rw [h.1]
  cases k <;> rfl

/-- Stepping is defined under base stepping, and under the open rule where it is given. -/
theorem exists_stepped (h : s.BaseStepping ∨ s.given.dsStepRule = true) (rs : PerSlot Rotor)
    (k : Slot) : ∃ os, stepped rs k s = .ok os := by
  obtain ⟨-, he⟩ | ⟨-, -, he⟩ | ⟨hbase, hgiven, -⟩ := stepped_cases rs k s
  · exact ⟨_, he⟩
  · exact ⟨_, he⟩
  · simp [hbase, hgiven] at h

/-- With the engine loaded, PROC of a letter steps slot 3 and answers the path at the stepped
offsets (R85). -/
theorem exec_proc_of_loaded (h : s.Loaded rs ref) (hstep : stepped rs .r3 s = .ok os) (x : Letter) :
    exec (.proc (letterBits x)) s
      = .next ((s.setOffsets os).deliver ⟨.ok, letterBits (path rs ref s.pb os x)⟩) := by
  simp [exec, execProc, rotors?_eq_some.mpr h.1, h.2, hstep, respond]

/-- With the engine loaded, STEP steps its slot and answers its new offset (R79). -/
theorem exec_step_of_loaded {k : Slot} (h : s.Loaded rs ref) (hstep : stepped rs k s = .ok os) :
    exec (.step k) s = .next ((s.setOffsets os).deliver ⟨.ok, letterBits (os.get k)⟩) := by
  simp [exec, execStep, rotors?_eq_some.mpr h.1, hstep, respond]

/-- PROC of a letter raises NOT_CONFIGURED, is refused, or finds the engine loaded and its next
offsets defined. -/
theorem exec_proc_cases (s : State) (x : Letter) :
    exec (.proc (letterBits x)) s = raise .notConfigured s
      ∨ (∃ why, exec (.proc (letterBits x)) s = .refused why)
      ∨ ∃ rs ref os, s.Loaded rs ref ∧ stepped rs .r3 s = .ok os := by
  simp only [exec, execProc, withSymbol_letterBits]
  split
  case h_1 rs ref hrs href =>
    cases hstep : stepped rs .r3 s with
    | error why => exact .inr (.inl ⟨why, rfl⟩)
    | ok os => exact .inr (.inr ⟨rs, ref, os, ⟨rotors?_eq_some.mp hrs, href⟩, hstep⟩)
  case h_2 => exact .inl rfl

/-- Settles O49: the valid bits make the engine loaded (`exists_loaded`), base stepping defines the
next offsets (`exists_stepped`), and so PROC answers OK with a letter (`exec_proc_of_loaded`). -/
theorem assembledEngineCannotFail : Obligations.AssembledEngineCannotFail := by
  intro s x hrot href hbase hx
  obtain ⟨rs, ref, hloaded⟩ := exists_loaded hrot href
  obtain ⟨os, hstep⟩ := exists_stepped (.inl hbase) rs .r3
  obtain ⟨a, ha⟩ := letter?_isSome_of_le hx
  obtain rfl := letter?_eq_some.mp ha
  refine ⟨_, _, exec_proc_of_loaded hloaded hstep a, rfl, rfl, ?_⟩
  rw [letterBits_toNat]
  omega

/-- In a good state every loaded rotor is good. -/
theorem State.Good.rotor_good (hgood : s.Good) (h : s.Loaded rs ref) (k : Slot) :
    (rs.get k).Good :=
  hgood.rotors k _ (h.rotor_get k)

/-- The way in undoes the way out: its stages are their inverses, in the opposite order. -/
theorem pathIn_pathOut (hrs : ∀ k, (rs.get k).Good) (hpb : Involution pb) (off : Offsets)
    (y : Letter) : pathIn rs pb off (pathOut rs pb off y) = y := by
  rw [pathIn, pathOut, hpb, flow_rflow (r := rs.r3) (hrs .r3),
    flow_rflow (r := rs.r2) (hrs .r2), flow_rflow (r := rs.r1) (hrs .r1)]

/-- The way out undoes the way in. -/
theorem pathOut_pathIn (hrs : ∀ k, (rs.get k).Good) (hpb : Involution pb) (off : Offsets)
    (x : Letter) : pathOut rs pb off (pathIn rs pb off x) = x := by
  rw [pathIn, pathOut, rflow_flow (r := rs.r1) (hrs .r1), rflow_flow (r := rs.r2) (hrs .r2),
    rflow_flow (r := rs.r3) (hrs .r3), hpb]

/-- The path is the reflector between a way in and its inverse, so it is an involution as the
reflector is (R89). -/
theorem path_path (hgood : s.Good) (h : s.Loaded rs ref) (off : Offsets) (x : Letter) :
    path rs ref s.pb off (path rs ref s.pb off x) = x := by
  have hrs := hgood.rotor_good h
  have hinv : Involution ref := (hgood.reflector ref h.2).1
  rw [path, path, pathIn_pathOut hrs hgood.plugboard, hinv, pathOut_pathIn hrs hgood.plugboard]

/-- A fixed point of the path would enter the reflector as a fixed point of it (R91). -/
theorem path_ne_self (hgood : s.Good) (h : s.Loaded rs ref) (off : Offsets) (x : Letter) :
    path rs ref s.pb off x ≠ x := by
  intro hfix
  have hnofix : NoFixedPoint ref := (hgood.reflector ref h.2).2
  have hin := congrArg (pathIn rs s.pb off) hfix
  rw [path, pathIn_pathOut (hgood.rotor_good h) hgood.plugboard] at hin
  exact hnofix _ hin

/-- Settles O51: the path conjugates the reflector (`path_path`, `path_ne_self`). -/
theorem pathIsAFixedPointFreeInvolution : Obligations.PathIsAFixedPointFreeInvolution :=
  fun _ _ _ off x hgood h => ⟨path_path hgood h off x, path_ne_self hgood h off x⟩

/-- Settles O52: an OK answer is the path at some position (`exec_proc_cases`), which has no fixed
point (`path_ne_self`). -/
theorem procNeverReturnsItsInput : Obligations.ProcNeverReturnsItsInput := by
  intro s t x y hgood hexec hok
  obtain he | ⟨why, he⟩ | ⟨rs, ref, os, hloaded, hstep⟩ := exec_proc_cases s x
  · exact absurd hok (raise_responses_ne_ok (by decide) (he ▸ hexec))
  · rw [he] at hexec
    cases hexec
  · rw [exec_proc_of_loaded hloaded hstep] at hexec
    have hy : (⟨.ok, y⟩ : Response) = ⟨.ok, letterBits (path rs ref s.pb os x)⟩ :=
      response_of_respond (u := s.setOffsets os) hexec rfl hok
    obtain rfl := (Response.mk.inj hy).2
    exact fun heq => path_ne_self hgood hloaded os x (letterBits_injective heq)

/-- The word of a PROC decodes to it, by the first row of the table (R47). -/
theorem decode_encode_proc (x : Field5) (tbl : Payload) :
    decode (encode (.proc x)) tbl = .cmd (.proc x) := by
  have hread : (Row.mk 0x1000 0xFFE0 fun f _ => some (.proc f.fb)).read (encode (.proc x)) tbl
      = some (.proc x) :=
    Row.read_eq_some.mpr ⟨Laws.TableRow.proc x, by rw [encode, fieldsOf_wordOf]⟩
  rw [decode, rows, List.findSome?_cons, hread]

/-- A run over no command stays where it is. -/
theorem runCommands_nil (hin : s.inbox = []) : runCommands s [] = .next s := by
  have hnone : s.present [] = s := by simp [State.present]
  rw [runCommands, List.map_nil, runInputs, hin, hnone]
  rfl

/-- A run that begins with PROC executes it and goes on from where it ends. -/
theorem runCommands_proc_cons {x : Field5} (hin : s.inbox = []) (h : exec (.proc x) s = .next t)
    (is : List Instr) : runCommands s (.proc x :: is) = runCommands t is := by
  have hfirst : (s.present [presented (.proc x)]).inbox = [presented (.proc x)] := by simp [hin]
  have hback : { s.present [presented (.proc x)] with inbox := [] } = s := by
    rw [← hin]
    rfl
  have hstep : step (s.present [presented (.proc x)]) = .next t := by
    rw [step_command hfirst, decode_encode_proc, hback, ← h]
  have hrun : runInputs s [presented (.proc x)] = .next t := by
    rw [runInputs, hin, List.length_nil, Nat.zero_add]
    exact run_succ_next hstep 0
  exact interactionsAreTakenInOrder s t [presented (.proc x)] (is.map presented) hin hrun

/-- Settles O53, by induction on the letters: PROC answers the path at the position it steps to, from
which the rest of both runs goes on; the same PROC of that answer steps to the same position and
answers the first letter (`path_path`), on every host's port
(`outputDependsOnlyOnEngineAndCommand`). -/
theorem engineIsReciprocal : Obligations.EngineIsReciprocal := by
  intro s rs ref xs
  induction xs generalizing s with
  | nil =>
    intro _ _ _ hin
    exact ⟨[], s, runCommands_nil hin, by simp [okLetters], rfl,
      fun u _ hu => ⟨u, runCommands_nil hu, by simp [okLetters]⟩⟩
  | cons x xs ih =>
    intro hgood hloaded hcan hin
    obtain ⟨os, hstep⟩ := exists_stepped hcan rs .r3
    have hx := exec_proc_of_loaded hloaded hstep x
    have hy := exec_proc_of_loaded hloaded hstep (path rs ref s.pb os x)
    rw [path_path hgood hloaded] at hy
    obtain ⟨ys, t, hrun, hans, hlen, hback⟩ :=
      ih ((s.setOffsets os).deliver ⟨.ok, letterBits (path rs ref s.pb os x)⟩)
        ⟨hgood.rotors, hgood.reflector, hgood.plugboard⟩ hloaded hcan
        ((exec_effect hx).inbox.trans hin)
    refine ⟨path rs ref s.pb os x :: ys, t, (runCommands_proc_cons hin hx _).trans hrun,
      by simp [hans, okLetters], congrArg (· + 1) hlen, fun u hsame hu => ?_⟩
    obtain ⟨v, r, hv, hsamev, hr, hvr⟩ := outputDependsOnlyOnEngineAndCommand _ s u _ hsame hy
    obtain ⟨w, hrunw, hansw⟩ := hback v hsamev ((exec_effect hv).inbox.trans hu)
    obtain rfl := List.singleton_inj.mp (List.append_cancel_left hr)
    exact ⟨w, (runCommands_proc_cons hu hv _).trans hrunw, by simp [hansw, hvr, okLetters]⟩

end Sys2Proof.Machine
end

section
/-! Nine PROBE commands after STEP r3 recompute a PROC (43_machine.md R96). -/

namespace Sys2Proof.Machine

/-- A loaded rotor is observed with an OK answer. -/
theorem observeRotor_of_loaded {s : State} {k : Slot} {r : Rotor} (h : s.rotor.get k = some r)
    (f : Rotor → Letter) : observeRotor k s f = .next (s.answering .ok (letterBits (f r))) := by
  rw [observeRotor, h]
  rfl

/-- A loaded reflector is observed with an OK answer. -/
theorem observeRef_of_loaded {s : State} {ref : Table} (h : s.ref = some ref)
    (f : Table → Letter) : observeRef s f = .next (s.answering .ok (letterBits (f ref))) := by
  rw [observeRef, h]
  rfl

/-- PROBE PB of a letter answers its plugboard image (R95). -/
theorem exec_probe_pb (s : State) (x : Letter) :
    exec (.probe .pb none (letterBits x)) s
      = .next (s.answering .ok (letterBits (s.pb.get x))) :=
  withSymbol_letterBits x s _

/-- PROBE FLOW of a letter in a loaded slot answers the flow at the current offset (R95). -/
theorem exec_probe_flow {s : State} {k : Slot} {r : Rotor} (h : s.rotor.get k = some r)
    (x : Letter) : exec (.probe .flow (some k) (letterBits x)) s
      = .next (s.answering .ok (letterBits (flow r (s.off.get k) x))) :=
  (withSymbol_letterBits x s _).trans (observeRotor_of_loaded h _)

/-- PROBE RFLOW of a letter in a loaded slot answers the reverse flow there (R95). -/
theorem exec_probe_rflow {s : State} {k : Slot} {r : Rotor} (h : s.rotor.get k = some r)
    (x : Letter) : exec (.probe .rflow (some k) (letterBits x)) s
      = .next (s.answering .ok (letterBits (rflow r (s.off.get k) x))) :=
  (withSymbol_letterBits x s _).trans (observeRotor_of_loaded h _)

/-- PROBE REF of a letter answers its image in the loaded reflector (R95). -/
theorem exec_probe_ref {s : State} {ref : Table} (h : s.ref = some ref) (x : Letter) :
    exec (.probe .ref none (letterBits x)) s
      = .next (s.answering .ok (letterBits (ref.get x))) :=
  (withSymbol_letterBits x s _).trans (observeRef_of_loaded h _)

/-- Settles O60: STEP r3 and PROC step to the same offsets (`exec_step_of_loaded`,
`exec_proc_of_loaded`), and the nine stages there are the nine lookups of the path (R86). -/
theorem probesRecomputeProc : Obligations.ProbesRecomputeProc := by
  intro s rs ref x hloaded hcan
  obtain ⟨os, hstep⟩ := exists_stepped hcan rs .r3
  have hafter : ((s.setOffsets os).deliver ⟨.ok, letterBits (os.get .r3)⟩).Loaded rs ref :=
    hloaded
  have hrot (k : Slot) := hafter.rotor_get k
  exact ⟨_, _, exec_step_of_loaded hloaded hstep, exec_proc_of_loaded hloaded hstep x,
    _, _, _, _, _, _, _, _, _,
    exec_probe_pb _ x, exec_probe_flow (hrot .r3) _, exec_probe_flow (hrot .r2) _,
    exec_probe_flow (hrot .r1) _, exec_probe_ref hafter.2 _, exec_probe_rflow (hrot .r1) _,
    exec_probe_rflow (hrot .r2) _, exec_probe_rflow (hrot .r3) _, exec_probe_pb _ _, rfl⟩

end Sys2Proof.Machine
end

section
/-! What every command answers, said once (`Answer`): the checks in the order of 60_exceptions.md R106,
each with its cause. From it, the exact causes of INVALID_SYMBOL and NOT_CONFIGURED (R100, R104) and
of the two refusals (R110). -/

namespace Sys2Proof.Machine

/-- The command needs an open parameter that the model is not given, and `why` says which (R110). -/
def NeedsUngiven (s : State) (why : Refusal) : Instr → Prop
  | .proc _ | .step _ =>
    why = .dsStepRuleUnknown ∧ s.given.dsStepRule = false ∧ ¬s.BaseStepping
  | .ldref src => why = .refRom2Unknown ∧ src = .rom 2 ∧ s.given.refRom2 = false
  | .setoff _ _ | .getoff _ | .setall _ | .ldrot _ _ _ | .plclr | .plswp _ _ | .setds _ _
  | .probe _ _ _ | .getcfg _ _ => False

/-- The command has letters for its symbols, the configuration and the parameters it needs. -/
structure PassesChecks (s : State) (i : Instr) : Prop where
  letters : ¬BadSymbol i
  configured : ¬Unconfigured s i
  given : ∀ why, ¬NeedsUngiven s why i

/-- What executing a command yields, each with its cause: an answer of the first check that fails, a
refusal after them, or what the command itself goes on to answer. -/
inductive Answer (s : State) (i : Instr) : Result → Prop
  | misfit (noEncoding : ¬WellFormed i) : Answer s i (raise .illegalCmd s)
  | badSymbol (bad : BadSymbol i) : Answer s i (raise .invalidSymbol s)
  | unconfigured (letters : ¬BadSymbol i) (missing : Unconfigured s i) :
      Answer s i (raise .notConfigured s)
  | refused {why : Refusal} (letters : ¬BadSymbol i) (configured : ¬Unconfigured s i)
      (ungiven : NeedsUngiven s why i) : Answer s i (.refused why)
  | failed {st : Status} (passes : PassesChecks s i) (notSymbol : st ≠ .invalidSymbol)
      (notConfig : st ≠ .notConfigured) : Answer s i (raise st s)
  | ok {u : State} {v : Field5} (passes : PassesChecks s i) (kept : u.responses = s.responses) :
      Answer s i (respond v u)

variable {i : Instr} {s : State}

theorem letterBits_not_bad (a : Letter) : ¬25 < (letterBits a).toNat := by
  rw [letterBits_toNat]
  omega

/-- A symbol field holds 26..31 or a letter (R49). -/
theorem bad_or_letterBits (x : Field5) : 25 < x.toNat ∨ ∃ a, x = letterBits a := by
  cases h : letter? x with
  | none => exact .inl (letter?_eq_none.mp h)
  | some a => exact .inr ⟨a, letter?_eq_some.mp h⟩

/-- A symbol operand is bad, or the answer is that of the rest of the command at its letter. -/
theorem Answer.of_withSymbol {x : Field5} {rest : Letter → Result}
    (hbad : 25 < x.toNat → BadSymbol i) (hrest : ∀ a, ¬25 < x.toNat → Answer s i (rest a)) :
    Answer s i (withSymbol x s rest) := by
  obtain hx | ⟨a, rfl⟩ := bad_or_letterBits x
  · rw [withSymbol_of_bad hx]
    exact .badSymbol (hbad hx)
  · rw [withSymbol_letterBits]
    exact hrest a (letterBits_not_bad a)

/-- Observing a rotor, where that is all the configuration the command needs. -/
theorem Answer.of_observeRotor {k : Slot} (f : Rotor → Letter) (letters : ¬BadSymbol i)
    (needs : Unconfigured s i ↔ s.rotValid k = false) (given : ∀ why, ¬NeedsUngiven s why i) :
    Answer s i (observeRotor k s f) := by
  obtain ⟨hk, he⟩ | ⟨r, hr, he⟩ := observeRotor_cases k s f <;> rw [he]
  · exact .unconfigured letters (needs.mpr hk)
  · exact .ok ⟨letters, by simp [needs, State.rotValid, hr], given⟩ rfl

/-- Observing the reflector, where that is all the configuration the command needs. -/
theorem Answer.of_observeRef (f : Table → Letter) (letters : ¬BadSymbol i)
    (needs : Unconfigured s i ↔ s.refValid = false) (given : ∀ why, ¬NeedsUngiven s why i) :
    Answer s i (observeRef s f) := by
  obtain ⟨href, he⟩ | ⟨t, ht, he⟩ := observeRef_cases s f <;> rw [he]
  · exact .unconfigured letters (needs.mpr href)
  · exact .ok ⟨letters, by simp [needs, State.refValid, ht], given⟩ rfl

/-- Stepping is refused exactly where it needs `DS_STEP_RULE` and the model is not given it. -/
theorem stepped_given_cases (rs : PerSlot Rotor) (k : Slot) (s : State) :
    ((∃ os, stepped rs k s = .ok os) ∧ ¬(s.given.dsStepRule = false ∧ ¬s.BaseStepping))
      ∨ (stepped rs k s = .error .dsStepRuleUnknown
          ∧ s.given.dsStepRule = false ∧ ¬s.BaseStepping) := by
  obtain ⟨hbase, he⟩ | ⟨-, hgiven, he⟩ | ⟨hbase, hgiven, he⟩ := stepped_cases rs k s
  · exact .inl ⟨⟨_, he⟩, fun h => h.2 hbase⟩
  · exact .inl ⟨⟨_, he⟩, by simp [hgiven]⟩
  · exact .inr ⟨he, hgiven, hbase⟩

/-- A loaded set of rotors is one with no `ROT_VALID` bit at 0. -/
theorem rotValid_of_rotors? {rs : PerSlot Rotor} (h : s.rotors? = some rs) :
    ¬∃ k, s.rotValid k = false := by
  simp [← rotors?_eq_none, h]

theorem execStep_answer (k : Slot) (s : State) : Answer s (.step k) (execStep k s) := by
  unfold execStep
  split
  case h_1 hrs => exact .unconfigured id (rotors?_eq_none.mp hrs)
  case h_2 rs hrs =>
    have hconf := rotValid_of_rotors? hrs
    obtain ⟨⟨os, he⟩, hgiven⟩ | ⟨he, hungiven⟩ := stepped_given_cases rs k s <;> rw [he]
    · exact .ok ⟨id, hconf, fun _ h => hgiven h.2⟩ rfl
    · exact .refused id hconf ⟨rfl, hungiven⟩

theorem execProc_answer (x : Field5) (s : State) : Answer s (.proc x) (execProc x s) := by
  refine .of_withSymbol id fun a hletter => ?_
  cases hrs : s.rotors? with
  | none => exact .unconfigured hletter (.inl (rotors?_eq_none.mp hrs))
  | some rs =>
    cases href : s.ref with
    | none => exact .unconfigured hletter (.inr (by simp [State.refValid, href]))
    | some ref =>
      have hconf : ¬Unconfigured s (.proc x) := by
        simp [Unconfigured, ← rotors?_eq_none, hrs, State.refValid, href]
      dsimp only
      obtain ⟨⟨os, he⟩, hgiven⟩ | ⟨he, hungiven⟩ := stepped_given_cases rs .r3 s <;> rw [he]
      · exact .ok ⟨hletter, hconf, fun _ h => hgiven h.2⟩ rfl
      · exact .refused hletter hconf ⟨rfl, hungiven⟩

/-- LDROT with a turnover letter answers as the check of R55 says (R58). -/
theorem execLdrot_letter_cases (k : Slot) (src : Source) (a : Letter) (s : State) :
    (¬ValidWiring (rotorSource src)
        ∧ execLdrot k src (letterBits a) s = raise .invalidWiring s)
      ∨ (ValidWiring (rotorSource src) ∧ execLdrot k src (letterBits a) s
          = respond 0 (s.loadRotor k (rotorOf (symbolsOf (rotorSource src)) a))) := by
  rw [execLdrot, withSymbol_letterBits]
  by_cases hvalid : ValidWiring (rotorSource src)
  · exact .inr ⟨hvalid, by rw [wiring?_eq_some.mpr ⟨hvalid, rfl⟩]⟩
  · exact .inl ⟨hvalid, by rw [wiring?_eq_none.mpr hvalid]⟩

theorem execLdrot_answer (k : Slot) (src : Source) (x : Field5) (s : State) :
    Answer s (.ldrot k src x) (execLdrot k src x s) := by
  obtain hx | ⟨a, rfl⟩ := bad_or_letterBits x
  · rw [execLdrot, withSymbol_of_bad hx]
    exact .badSymbol hx
  · have hpasses : PassesChecks s (.ldrot k src (letterBits a)) :=
      ⟨letterBits_not_bad a, id, fun _ => id⟩
    obtain ⟨-, he⟩ | ⟨-, he⟩ := execLdrot_letter_cases k src a s <;> rw [he]
    · exact .failed hpasses (by decide) (by decide)
    · exact .ok hpasses rfl

theorem execLdref_answer (src : Source) (s : State) :
    Answer s (.ldref src) (execLdref src s) := by
  by_cases hungiven : src = .rom 2 ∧ s.given.refRom2 = false
  · have hopen : (isOpenSource src && !s.given.refRom2) = true := by
      simp [isOpenSource_iff, hungiven]
    rw [execLdref, if_pos hopen]
    exact .refused id id ⟨rfl, hungiven⟩
  · have hpasses : PassesChecks s (.ldref src) := ⟨id, id, fun _ h => hungiven h.2⟩
    rw [not_and_or, Bool.not_eq_false] at hungiven
    obtain ⟨-, he⟩ | ⟨-, -, he⟩ | ⟨-, -, he⟩ := execLdref_cases hungiven <;> rw [he]
    · exact .failed hpasses (by decide) (by decide)
    · exact .failed hpasses (by decide) (by decide)
    · exact .ok hpasses rfl

/-- PLSWP of two letters raises DUPLICATE_LETTER or adds the pair, as R64 and R103 say. -/
theorem execPlswp_letters_cases (a b : Letter) (s : State) :
    ((s.pb.get a ≠ a ∨ s.pb.get b ≠ b ∨ a = b)
        ∧ execPlswp (letterBits a) (letterBits b) s = raise .duplicateLetter s)
      ∨ (¬(s.pb.get a ≠ a ∨ s.pb.get b ≠ b ∨ a = b)
        ∧ execPlswp (letterBits a) (letterBits b) s
          = respond 0 (s.setPb (exchange s.pb a b))) := by
  have hcheck : (a = b || inPair s.pb a || inPair s.pb b) = true
      ↔ s.pb.get a ≠ a ∨ s.pb.get b ≠ b ∨ a = b := by
    simp only [inPair, Bool.or_eq_true, decide_eq_true_eq, bne_iff_ne]
    tauto
  rw [execPlswp, withSymbol_letterBits, withSymbol_letterBits]
  by_cases hdup : s.pb.get a ≠ a ∨ s.pb.get b ≠ b ∨ a = b
  · exact .inl ⟨hdup, if_pos (hcheck.mpr hdup)⟩
  · exact .inr ⟨hdup, if_neg (mt hcheck.mp hdup)⟩

theorem execPlswp_answer (x y : Field5) (s : State) :
    Answer s (.plswp x y) (execPlswp x y s) := by
  obtain hx | ⟨a, rfl⟩ := bad_or_letterBits x
  · rw [execPlswp, withSymbol_of_bad hx]
    exact .badSymbol (.inl hx)
  obtain hy | ⟨b, rfl⟩ := bad_or_letterBits y
  · rw [execPlswp, withSymbol_letterBits, withSymbol_of_bad hy]
    exact .badSymbol (.inr hy)
  have hpasses : PassesChecks s (.plswp (letterBits a) (letterBits b)) :=
    ⟨not_or_intro (letterBits_not_bad a) (letterBits_not_bad b), id, fun _ => id⟩
  obtain ⟨-, he⟩ | ⟨-, he⟩ := execPlswp_letters_cases a b s <;> rw [he]
  · exact .failed hpasses (by decide) (by decide)
  · exact .ok hpasses rfl

theorem execProbe_answer (stage : Stage) (k : Option Slot) (x : Field5) (s : State) :
    Answer s (.probe stage k x) (execProbe stage k x s) := by
  unfold execProbe
  split
  case h_1 =>
    refine .of_withSymbol id fun a hx => ?_
    exact .ok ⟨hx, by simp [Unconfigured, Stage.namesSlot], fun _ => id⟩ rfl
  case h_4 =>
    refine .of_withSymbol id fun a hx => ?_
    exact .of_observeRef _ hx (by simp [Unconfigured]) fun _ => id
  case h_2 | h_3 | h_5 | h_6 =>
    refine .of_withSymbol id fun a hx => ?_
    exact .of_observeRotor _ hx
      (by simp [Unconfigured, Stage.namesSlot]) fun _ => id
  all_goals exact .misfit nofun

theorem execGetcfg_answer (item : Item) (k : Option Slot) (s : State) :
    Answer s (.getcfg item k) (execGetcfg item k s) := by
  unfold execGetcfg
  split
  case h_1 => exact .of_observeRotor _ id (by simp [Unconfigured]) fun _ => id
  case h_2 | h_3 => exact .ok ⟨id, by simp [Unconfigured], fun _ => id⟩ rfl
  all_goals exact .misfit nofun

/-- Every command, in every state, answers in one of these ways. -/
theorem exec_answer (i : Instr) (s : State) : Answer s i (exec i s) := by
  cases i with
  | proc x => exact execProc_answer x s
  | step k => exact execStep_answer k s
  | setoff k v =>
    exact .of_withSymbol id fun o hv => .ok ⟨hv, id, fun _ => id⟩ rfl
  | setall v =>
    exact .of_withSymbol id fun o hv => .ok ⟨hv, id, fun _ => id⟩ rfl
  | ldrot k src x => exact execLdrot_answer k src x s
  | ldref src => exact execLdref_answer src s
  | plswp a b => exact execPlswp_answer a b s
  | probe stage k x => exact execProbe_answer stage k x s
  | getcfg item k => exact execGetcfg_answer item k s
  | getoff k => exact .ok (u := s) ⟨id, id, fun _ => id⟩ rfl
  | plclr => exact .ok (u := s.setPb Table.identity) ⟨id, id, fun _ => id⟩ rfl
  | setds k en => exact .ok (u := s.setDs k en) ⟨id, id, fun _ => id⟩ rfl

/-- The two checks that come before anything else a well-formed command does, and that nothing after
them gives the same answer. -/
theorem exec_check_cases (hwf : WellFormed i) (s : State) :
    (BadSymbol i ∧ exec i s = raise .invalidSymbol s)
      ∨ (¬BadSymbol i ∧ Unconfigured s i ∧ exec i s = raise .notConfigured s)
      ∨ (¬BadSymbol i ∧ ¬Unconfigured s i
          ∧ exec i s ≠ .next (s.answering .invalidSymbol 0)
          ∧ exec i s ≠ .next (s.answering .notConfigured 0)) := by
  have h := exec_answer i s
  generalize exec i s = o at h ⊢
  cases h with
  | misfit noEncoding => exact absurd hwf noEncoding
  | badSymbol bad => exact .inl ⟨bad, rfl⟩
  | unconfigured letters missing => exact .inr (.inl ⟨letters, missing, rfl⟩)
  | refused letters configured => exact .inr (.inr ⟨letters, configured, nofun, nofun⟩)
  | failed passes notSymbol notConfig =>
    exact .inr (.inr ⟨passes.letters, passes.configured, mt raise_eq_answering.mp notSymbol,
      mt raise_eq_answering.mp notConfig⟩)
  | ok passes kept =>
    exact .inr (.inr ⟨passes.letters, passes.configured, respond_ne_answering (by decide) kept,
      respond_ne_answering (by decide) kept⟩)

/-- Settles O22: the check of the symbols comes first, and no other check gives its answer
(`exec_check_cases`). -/
theorem invalidSymbolExactlyForNonLetters : Obligations.InvalidSymbolExactlyForNonLetters := by
  intro i s hwf
  obtain ⟨hbad, he⟩ | ⟨hletters, -, he⟩ | ⟨hletters, -, hne, -⟩ := exec_check_cases hwf s
  · exact iff_of_true he hbad
  · exact iff_of_false (he ▸ mt raise_eq_answering.mp (by decide)) hletters
  · exact iff_of_false hne hletters

/-- Settles O23: the check of the configuration comes after that of the symbols, and no other check
gives its answer (`exec_check_cases`). -/
theorem notConfiguredExactlyForMissingLoads : Obligations.NotConfiguredExactlyForMissingLoads := by
  intro i s hwf
  obtain ⟨hbad, he⟩ | ⟨hletters, hmissing, he⟩ | ⟨-, hconf, -, hne⟩ := exec_check_cases hwf s
  · exact iff_of_false (he ▸ mt raise_eq_answering.mp (by decide)) fun h => h.1 hbad
  · exact iff_of_true he ⟨hletters, hmissing⟩
  · exact iff_of_false hne fun h => hconf h.2

theorem NeedsUngiven.wellFormed {why : Refusal} (h : NeedsUngiven s why i) : WellFormed i := by
  cases i with
  | probe | getcfg => cases h
  | _ => rfl

/-- A command needs at most one of the two parameters. -/
theorem NeedsUngiven.unique {why why' : Refusal} (h : NeedsUngiven s why i)
    (h' : NeedsUngiven s why' i) : why = why' := by
  cases i with
  | proc | step | ldref => exact h.1.trans h'.1.symm
  | _ => cases h

/-- A command is refused exactly when it needs a parameter that is not given and passes the checks of
R106. -/
theorem exec_eq_refused_iff {why : Refusal} :
    exec i s = .refused why ↔ NeedsUngiven s why i ∧ ¬BadSymbol i ∧ ¬Unconfigured s i := by
  have h := exec_answer i s
  generalize exec i s = o at h ⊢
  cases h with
  | misfit noEncoding => exact iff_of_false raise_ne_refused fun h => noEncoding h.1.wellFormed
  | badSymbol bad => exact iff_of_false raise_ne_refused fun h => h.2.1 bad
  | unconfigured letters missing => exact iff_of_false raise_ne_refused fun h => h.2.2 missing
  | refused letters configured ungiven =>
    constructor
    · rintro ⟨⟩
      exact ⟨ungiven, letters, configured⟩
    · intro h
      rw [ungiven.unique h.1]
  | failed passes => exact iff_of_false raise_ne_refused fun h => passes.given _ h.1
  | ok passes => exact iff_of_false respond_ne_refused fun h => passes.given _ h.1

theorem not_baseStepping_iff : ¬s.BaseStepping ↔ ∃ k, s.dsEn.get k = true := by
  rw [← anyDs_eq_false, Bool.not_eq_false, State.anyDs, Bool.or_eq_true, Bool.or_eq_true]
  constructor
  · rintro ((h | h) | h)
    · exact ⟨.r1, h⟩
    · exact ⟨.r2, h⟩
    · exact ⟨.r3, h⟩
  · rintro ⟨k, h⟩
    cases k with
    | r1 => exact .inl (.inl h)
    | r2 => exact .inl (.inr h)
    | r3 => exact .inr h

theorem needsUngiven_dsStepRule_iff :
    NeedsUngiven s .dsStepRuleUnknown i ↔ s.given.dsStepRule = false
      ∧ (∃ k, s.dsEn.get k = true) ∧ ((∃ k, i = .step k) ∨ ∃ x, i = .proc x) := by
  cases i <;> simp [NeedsUngiven, not_baseStepping_iff]

theorem needsUngiven_refRom2_iff :
    NeedsUngiven s .refRom2Unknown i ↔ s.given.refRom2 = false ∧ i = .ldref (.rom 2) := by
  cases i <;> simp [NeedsUngiven, and_comm]

/-- Settles O18: a refusal is exactly a needed parameter that is not given, after the checks
(`exec_eq_refused_iff`); there is no fault at all, and a run stops at a step that is refused. -/
theorem refusalsArisePreciselyForMissingParameters :
    Obligations.RefusalsArisePreciselyForMissingParameters := by
  intro i s
  refine ⟨?dsRule, ?refRom, fun why h => ?onlyTwo, fun why => ?noFault, fun why n h => ?run⟩
  case dsRule =>
    rw [exec_eq_refused_iff, needsUngiven_dsStepRule_iff]
    tauto
  case refRom =>
    rw [exec_eq_refused_iff, needsUngiven_refRom2_iff, and_iff_left_iff_imp]
    rintro ⟨-, rfl⟩
    exact ⟨id, id⟩
  case onlyTwo =>
    have hneeds := (exec_eq_refused_iff.mp h).1
    cases i with
    | proc | step => exact .inl hneeds.1
    | ldref => exact .inr hneeds.1
    | _ => cases hneeds
  case noFault => cases why
  case run => simp only [Host.Core.run, Sys2Proof.core, h]

end Sys2Proof.Machine
end

section
/-! The errors of the loads and of PLSWP, what a failing command leaves, and the words that are no
command (60_exceptions.md R99, R101, R102, R103, R105). -/

namespace Sys2Proof.Machine

/-- Settles O24: with a turnover letter LDROT only checks its wiring (`execLdrot_letter_cases`), and
LDREF's two checks are `execLdref_tableErrors`. -/
theorem tableErrorsOfTheLoads : Obligations.TableErrorsOfTheLoads := by
  refine ⟨fun k src t s ht => ?_, fun src s hgiven => execLdref_tableErrors hgiven⟩
  obtain hbad | ⟨a, rfl⟩ := bad_or_letterBits t
  · exact absurd hbad ht.not_gt
  rw [exec]
  obtain ⟨hbad, he⟩ | ⟨hvalid, he⟩ := execLdrot_letter_cases k src a s <;> rw [he]
  · exact iff_of_true rfl hbad
  · exact iff_of_false (respond_ne_answering (by decide) rfl) (not_not_intro hvalid)

/-- Settles O25: PLSWP of two letters checks their reuse and nothing else
(`execPlswp_letters_cases`). -/
theorem duplicateLetterExactlyForReuse : Obligations.DuplicateLetterExactlyForReuse := by
  intro a b s
  rw [exec]
  obtain ⟨hdup, he⟩ | ⟨hfree, he⟩ := execPlswp_letters_cases a b s <;> rw [he]
  · exact iff_of_true rfl hdup
  · exact iff_of_false (respond_ne_answering (by decide) rfl) hfree

/-- A command fails, and then only answers, or it answers OK. -/
theorem Effect.failed_or_ok {i : Instr} {s t : State} (h : Effect s i t) :
    (∃ st, t = s.deliver ⟨st, 0⟩)
      ∨ ∃ (u : State) (v : Field5), t = u.deliver ⟨.ok, v⟩ ∧ u.responses = s.responses := by
  cases h with
  | failed => exact .inl ⟨_, rfl⟩
  | _ => exact .inr ⟨_, _, rfl, rfl⟩

/-- A command whose response is an error adds that error with RESULT 0 and changes nothing else. -/
theorem Effect.eq_deliver_of_error {i : Instr} {s t : State} {r : Response} (h : Effect s i t)
    (ht : t.responses = s.responses ++ [r]) (hr : r.status ≠ .ok) :
    t = s.deliver ⟨r.status, 0⟩ := by
  obtain ⟨st, rfl⟩ | ⟨u, v, rfl, hu⟩ := h.failed_or_ok
  · obtain rfl := response_of_raise rfl ht
    rfl
  · obtain rfl := response_of_respond rfl hu ht
    exact absurd rfl hr

/-- Settles O19: a command that answers an error only answers (`Effect.eq_deliver_of_error`), and so
does a word that is no command. -/
theorem failingCommandsWriteNothing : Obligations.FailingCommandsWriteNothing := by
  intro s t cw tbl rest r hin h ht hr
  rw [step_command hin] at h
  split at h
  case h_1 i hd => exact (exec_effect h).eq_deliver_of_error ht hr
  case h_2 =>
    obtain rfl := raise_eq_next.mp h
    obtain rfl := response_of_raise rfl ht
    rfl

/-- Settles O6: `step_of_not_cmd` is the rule of R99. -/
theorem illegalWordsRaiseIllegalCmd : Obligations.IllegalWordsRaiseIllegalCmd :=
  fun s _ _ h => step_of_not_cmd h s

end Sys2Proof.Machine
end

section
/-! Encoding and decoding are inverse to each other (30_encoding.md R47, R48): at most one row takes
a word, because the rows' opcodes differ, so a word decodes to whatever a row reads from it; and each
command's row reads the command from the command's word. -/

namespace Sys2Proof

theorem rows_op_nodup : (rows.map fun r => (fieldsOf r.code).op).Nodup := by decide

theorem rows_mask_op : ∀ r ∈ rows, (fieldsOf r.mask).op = BitVec.allOnes 4 := by decide

/-- At most one row takes a word. -/
theorem row_unique {cw : CommandWord} {r r' : Row} (hr : r ∈ rows) (hr' : r' ∈ rows)
    (h : cw &&& r.mask = r.code) (h' : cw &&& r'.mask = r'.code) : r = r' := by
  refine List.inj_on_of_nodup_map rows_op_nodup hr hr' ?_
  rw [← op_eq_of_matches h (rows_mask_op r hr), ← op_eq_of_matches h' (rows_mask_op r' hr')]

/-- A word decodes to a command exactly when some row reads the command from it. -/
theorem decode_eq_cmd_iff_read {cw : CommandWord} {tbl : Payload} {i : Instr} :
    decode cw tbl = .cmd i ↔ ∃ r ∈ rows, r.read cw tbl = some i := by
  unfold decode
  cases hfind : rows.findSome? fun r => r.read cw tbl with
  | none =>
    have hnone := List.findSome?_eq_none_iff.mp hfind
    exact iff_of_false nofun fun ⟨r, hr, hread⟩ => by simp [hnone r hr] at hread
  | some j =>
    obtain ⟨r, hr, hj⟩ := List.exists_of_findSome?_eq_some hfind
    rw [Decoded.cmd.injEq]
    constructor
    · rintro rfl
      exact ⟨r, hr, hj⟩
    · rintro ⟨r', hr', hi⟩
      obtain rfl := row_unique hr hr' (Row.read_eq_some.mp hj).1 (Row.read_eq_some.mp hi).1
      exact Option.some.inj (hj.symm.trans hi)

/-- A word decodes to what a row builds from its fields, where its bits are the row's. -/
theorem decode_of_row {cw : CommandWord} {tbl : Payload} {i : Instr} (n : Fin 12)
    (hmatch : cw &&& rows[n].mask = rows[n].code)
    (hbuild : rows[n].build (fieldsOf cw) tbl = some i) : decode cw tbl = .cmd i :=
  decode_eq_cmd_iff_read.mpr
    ⟨rows[n], List.getElem_mem _, Row.read_eq_some.mpr ⟨hmatch, hbuild⟩⟩

@[simp] theorem slotOf_slotOrNoneBits (k : Option Slot) : slotOf (slotOrNoneBits k) = k :=
  slotOf_eq_iff.mpr rfl

@[simp] theorem slotOf_slotBits (k : Slot) : slotOf (slotBits k) = some k :=
  slotOf_eq_some.mpr rfl

/-- The `src` field of a source selects it, beside the payload it reads, if it reads one. -/
theorem sourceOf_sourceBits {src : Source} {tbl : Payload}
    (h : ∀ p, src.payload? = some p → p = tbl) : sourceOf (sourceBits src) tbl = some src := by
  cases src with
  | rom k =>
    match k with
    | 0 | 1 | 2 => rfl
  | payload p =>
    obtain rfl := h p rfl
    rfl

/-- The source a `src` field selects reads no payload but the one presented. -/
theorem payload?_of_sourceOf {fa : Field5} {tbl p : Payload} {src : Source}
    (h : sourceOf fa tbl = some src) (hp : src.payload? = some p) : p = tbl := by
  unfold sourceOf at h
  split at h <;> cases h <;> cases hp
  rfl

@[simp] theorem stageOf_stageBits (stage : Stage) : stageOf (stageBits stage) = some stage := by
  cases stage <;> rfl

@[simp] theorem itemOf_itemBits (item : Item) : itemOf (itemBits item) = some item := by
  cases item <;> rfl

/-- Settles O2: the word of each command is a word of the command's row (`Laws.TableRow`), and the
row builds the command from its fields, each operand from the field that holds it. -/
theorem decodeOfEncodeIsTheCommand : Obligations.DecodeOfEncodeIsTheCommand := by
  intro i tbl hwf hpayload
  cases i with
  | proc x => exact decode_of_row 0 (Laws.TableRow.proc x) (by simp [rows, encode])
  | step k => exact decode_of_row 1 (Laws.TableRow.step k) (by simp [rows, encode])
  | setoff k v => exact decode_of_row 2 (Laws.TableRow.setoff k v) (by simp [rows, encode])
  | getoff k => exact decode_of_row 3 (Laws.TableRow.getoff k) (by simp [rows, encode])
  | setall v => exact decode_of_row 4 (Laws.TableRow.setall v) (by simp [rows, encode])
  | ldrot k src t =>
    exact decode_of_row 5 (Laws.TableRow.ldrot k src t)
      (by simp [rows, encode, sourceOf_sourceBits hpayload])
  | ldref src =>
    exact decode_of_row 6 (Laws.TableRow.ldref src)
      (by simp [rows, encode, sourceOf_sourceBits hpayload])
  | plclr => exact decode_of_row 7 Laws.TableRow.plclr rfl
  | plswp a b => exact decode_of_row 8 (Laws.TableRow.plswp a b) (by simp [rows, encode])
  | setds k en =>
    exact decode_of_row 9 (Laws.TableRow.setds k en) (by cases en <;> simp [rows, encode])
  | probe stage k x =>
    exact decode_of_row 10 (Laws.TableRow.probe stage k x)
      (by simpa [rows, encode, onlyWellFormed_eq_some] using hwf)
  | getcfg item k =>
    exact decode_of_row 11 (Laws.TableRow.getcfg item k)
      (by simpa [rows, encode, onlyWellFormed_eq_some] using hwf)

/-- Only the rows of LDROT and LDREF build a command that reads a payload, and they pass on the one
presented. -/
theorem payload?_of_mem_rows {f : Fields} {tbl p : Payload} {i : Instr}
    (hp : i.payload? = some p) : ∀ r ∈ rows, r.build f tbl = some i → p = tbl := by
  simp only [rows, List.forall_mem_cons, Option.some.injEq, Option.map_eq_some_iff,
    Option.bind_eq_some_iff, onlyWellFormed_eq_some, forall_exists_index, and_imp]
  refine ⟨?proc, ?step, ?setoff, ?getoff, ?setall, ?ldrot, ?ldref, ?plclr, ?plswp, ?setds, ?probe,
    ?getcfg, List.forall_mem_nil _⟩
  case ldrot =>
    rintro k - src hsrc rfl
    exact payload?_of_sourceOf hsrc hp
  case ldref =>
    rintro src hsrc rfl
    exact payload?_of_sourceOf hsrc hp
  case proc | setall | plclr | plswp => rintro rfl; cases hp
  case step | setoff | getoff | setds => rintro k - rfl; cases hp
  case probe | getcfg => rintro _ - rfl; cases hp

/-- Settles O3: a row that reads a command from a word takes the payload from beside the word
(`payload?_of_mem_rows`); that the word is the command's own is `encode_of_decode`. -/
theorem eachCommandHasOneWord : Obligations.EachCommandHasOneWord := by
  intro cw tbl i h
  obtain ⟨hword, hwf⟩ := encode_of_decode h
  obtain ⟨r, hr, hread⟩ := decode_eq_cmd_iff_read.mp h
  exact ⟨hword, hwf, fun p hp => payload?_of_mem_rows hp r hr (Row.read_eq_some.mp hread).2⟩

/-- A word decodes to a command exactly when it is the command's own word, the command is well
formed and it reads no payload but the one presented. -/
theorem decode_eq_cmd_iff {cw : CommandWord} {tbl : Payload} {i : Instr} :
    decode cw tbl = .cmd i ↔
      encode i = cw ∧ WellFormed i ∧ ∀ p, i.payload? = some p → p = tbl := by
  constructor
  · exact eachCommandHasOneWord cw tbl i
  · rintro ⟨rfl, hwf, hp⟩
    exact decodeOfEncodeIsTheCommand i tbl hwf hp

/-- The `src` fields and the sources they select (R51). -/
theorem eq_sourceBits_iff {src : Source} {fa : Field5} {tbl : Payload} :
    (fa = sourceBits src ∧ ∀ p, src.payload? = some p → p = tbl) ↔
      (fa = 0 ∧ src = .rom 0) ∨ (fa = 1 ∧ src = .rom 1) ∨ (fa = 2 ∧ src = .rom 2)
        ∨ (fa = 31 ∧ src = .payload tbl) := by
  constructor
  · rintro ⟨rfl, hp⟩
    cases src with
    | rom k =>
      match k with
      | 0 | 1 | 2 => simp [sourceBits]
    | payload p => simp [sourceBits, hp p rfl]
  · rintro (⟨rfl, rfl⟩ | ⟨rfl, rfl⟩ | ⟨rfl, rfl⟩ | ⟨rfl, rfl⟩) <;>
      simp [sourceBits, Source.payload?]

/-- The SLOT field where a slot has to be named. -/
theorem eq_slotOrNoneBits_and_isSome {k : Option Slot} {slot : BitVec 2} :
    (slot = slotOrNoneBits k ∧ k.isSome = true) ↔ ∃ j, slot = slotBits j ∧ k = some j := by
  cases k <;> simp [slotOrNoneBits]

/-- The SLOT field where no slot may be named. -/
theorem eq_slotOrNoneBits_and_isNone {k : Option Slot} {slot : BitVec 2} :
    (slot = slotOrNoneBits k ∧ k.isSome = false) ↔ slot = 0 ∧ k = none := by
  cases k <;> simp [slotOrNoneBits]

/-- The `stage` fields, with the SLOT field each stage asks for (R50, R95). -/
theorem eq_stageBits_iff {stage : Stage} {k : Option Slot} {slot : BitVec 2} {fa : Field5} :
    (fa = stageBits stage ∧ slot = slotOrNoneBits k ∧ k.isSome = stage.namesSlot) ↔
      (fa = 0 ∧ stage = .pb ∧ slot = 0 ∧ k = none)
        ∨ (fa = 1 ∧ stage = .flow ∧ ∃ j, slot = slotBits j ∧ k = some j)
        ∨ (fa = 2 ∧ stage = .rflow ∧ ∃ j, slot = slotBits j ∧ k = some j)
        ∨ (fa = 3 ∧ stage = .ref ∧ slot = 0 ∧ k = none)
        ∨ (fa = 4 ∧ stage = .fwd ∧ ∃ j, slot = slotBits j ∧ k = some j)
        ∨ (fa = 5 ∧ stage = .bwd ∧ ∃ j, slot = slotBits j ∧ k = some j) := by
  cases stage <;> simp only [Stage.namesSlot, eq_slotOrNoneBits_and_isSome,
    eq_slotOrNoneBits_and_isNone, stageBits, reduceCtorEq, false_and, and_false, true_and, or_false,
    false_or]

/-- The `item` fields, with the SLOT field each item asks for (R50, R97). -/
theorem eq_itemBits_iff {item : Item} {k : Option Slot} {slot : BitVec 2} {fa : Field5} :
    (fa = itemBits item ∧ slot = slotOrNoneBits k ∧ k.isSome = item.namesSlot) ↔
      (fa = 0 ∧ item = .turn ∧ ∃ j, slot = slotBits j ∧ k = some j)
        ∨ (fa = 1 ∧ item = .ds ∧ ∃ j, slot = slotBits j ∧ k = some j)
        ∨ (fa = 2 ∧ item = .valid ∧ slot = 0 ∧ k = none) := by
  cases item <;> simp only [Item.namesSlot, eq_slotOrNoneBits_and_isSome,
    eq_slotOrNoneBits_and_isNone, itemBits, reduceCtorEq, false_and, and_false, true_and, or_false,
    false_or]

/-- SETDS's FB field is its enable bit. -/
theorem eq_enableBits_iff {fb : Field5} {en : Bool} :
    (fb = if en then 1 else 0) ↔ (fb = 0 ∧ en = false) ∨ (fb = 1 ∧ en = true) := by
  cases en <;> simp

/-- Settles O4: a word decodes to a command exactly when its fields are those of the command's own
word (`decode_eq_cmd_iff`), and those are the row's; four rows are stated in another order. -/
theorem fieldsThatEachCommandAllows : Obligations.FieldsThatEachCommandAllows := by
  intro op slot fa fb tbl
  simp only [decode_eq_cmd_iff, eq_comm (b := wordOf op slot fa fb), encode, wordOf_injective,
    Instr.payload?, WellFormed, Instr.wellFormed, beq_iff_eq, reduceCtorEq, false_imp_iff,
    implies_true, and_true, true_and, ← eq_sourceBits_iff, ← eq_stageBits_iff, ← eq_itemBits_iff,
    ← eq_enableBits_iff]
  refine ⟨?ldrot, ?ldref, ?probe, ?getcfg⟩
  all_goals
    intros
    tauto

/-- Settles O1: each of the six words is the one that `encode` gives the command. -/
theorem wordsDecodeToTheirCommands : Obligations.WordsDecodeToTheirCommands := by
  intro tbl
  have hldref : encode (.ldref (.payload tbl)) = 0b0111_00_11111_00000 :=
    show wordOf 7 0 31 0 = _ from rfl
  exact ⟨decode_eq_cmd_iff.mpr ⟨rfl, rfl, nofun⟩, decode_eq_cmd_iff.mpr ⟨rfl, rfl, nofun⟩,
    decode_eq_cmd_iff.mpr ⟨rfl, rfl, nofun⟩,
    decode_eq_cmd_iff.mpr ⟨hldref, rfl, fun _ hp => (Option.some.inj hp).symm⟩,
    decode_eq_cmd_iff.mpr ⟨rfl, rfl, nofun⟩, decode_eq_cmd_iff.mpr ⟨rfl, rfl, nofun⟩⟩

end Sys2Proof
end

section
/-! The table invariants of 10_state.md R23, R25, R26: they hold at reset and every step keeps them;
and what reset leaves (70_reset_and_hazards.md R114). -/

namespace Sys2Proof.Machine

variable {i : Instr} {s t : State}

theorem involution_identity : Involution Table.identity := by
  simp [Involution]

/-- Two unpaired letters exchanged leave an involution. -/
theorem involution_exchange {pb : Table} {a b : Letter} (h : Involution pb) (freeA : pb.get a = a)
    (freeB : pb.get b = b) : Involution (exchange pb a b) := by
  intro x
  by_cases hxb : x = b
  · by_cases hab : a = b <;> simp [exchange_get, hxb, hab, freeA, freeB]
  by_cases hxa : x = a
  · simp [exchange_get, hxa, freeA, freeB]
  · have hneA : pb.get x ≠ a := fun e => hxa (by rw [← h x, e, freeA])
    have hneB : pb.get x ≠ b := fun e => hxb (by rw [← h x, e, freeB])
    rw [exchange_get_of_ne hxa hxb, exchange_get_of_ne hneA hneB, h]

/-- Loading a good rotor keeps the invariants. -/
theorem State.Good.loadRotor (h : s.Good) (k : Slot) {r : Rotor} (hr : r.Good) :
    (s.loadRotor k r).Good := by
  refine ⟨fun j q hq => ?_, h.reflector, h.plugboard⟩
  by_cases hj : j = k
  · subst hj
    obtain rfl : r = q := by simpa using hq
    exact hr
  · rw [loadRotor_rotor, PerSlot.get_set_ne _ _ hj] at hq
    exact h.rotors j q hq

/-- Loading a fixed-point-free involution as the reflector keeps the invariants. -/
theorem State.Good.loadRef (h : s.Good) {table : Table}
    (htable : Involution table ∧ NoFixedPoint table) : (s.loadRef table).Good := by
  refine ⟨h.rotors, fun u hu => ?_, h.plugboard⟩
  obtain rfl : table = u := by simpa using hu
  exact htable

/-- Setting the plugboard to an involution keeps the invariants. -/
theorem State.Good.setPb (h : s.Good) {pb : Table} (hpb : Involution pb) : (s.setPb pb).Good :=
  ⟨h.rotors, h.reflector, hpb⟩

/-- The invariants speak of the tables alone. -/
theorem State.Good.of_tables (h : s.Good) (hrotor : t.rotor = s.rotor) (href : t.ref = s.ref)
    (hpb : t.pb = s.pb) : t.Good :=
  ⟨hrotor ▸ h.rotors, href ▸ h.reflector, hpb ▸ h.plugboard⟩

/-- Every command keeps the table invariants: the loads and PLSWP because of what they check. -/
theorem Effect.good (heff : Effect s i t) (h : s.Good) : t.Good := by
  cases heff with
  | ldrot k turn valid =>
    obtain ⟨hvalid, rfl⟩ := wiring?_eq_some.mp valid
    exact (h.loadRotor k (rotorOf_good hvalid turn)).of_tables rfl rfl rfl
  | ldref valid reflects =>
    exact (h.loadRef ((isFixedPointFreeInvolution_iff _).mp reflects)).of_tables rfl rfl rfl
  | plclr => exact (h.setPb involution_identity).of_tables rfl rfl rfl
  | plswp differ freeA freeB =>
    have hpb := involution_exchange h.plugboard (inPair_eq_false.mp freeA)
      (inPair_eq_false.mp freeB)
    exact (h.setPb hpb).of_tables rfl rfl rfl
  | failed | read | proc | step | setoff | setall | setds => exact h.of_tables rfl rfl rfl

/-- Settles O14: nothing is loaded at reset, and the plugboard is the identity. -/
theorem resetTablesAreGood : Obligations.ResetTablesAreGood := by
  refine ⟨fun k r hr => ?_, nofun, involution_identity⟩
  simp [State.reset] at hr

/-- Settles O15: a step idles, resets (`resetTablesAreGood`), has a command's effect
(`Effect.good`) or only answers. -/
theorem everyStepKeepsTheTablesGood : Obligations.EveryStepKeepsTheTablesGood := by
  intro s t hgood h
  obtain rfl | ⟨rest, -, rfl⟩ | ⟨cw, tbl, rest, i, -, -, heff⟩ | ⟨rest, rfl⟩ := step_next_cases h
  · exact hgood
  · exact resetTablesAreGood.of_tables rfl rfl rfl
  · exact heff.good (hgood.of_tables rfl rfl rfl)
  · exact hgood.of_tables rfl rfl rfl

/-- Settles O13: the reset values of R114, with an empty port. -/
theorem machineStartsReset : Obligations.MachineStartsReset :=
  ⟨rfl, rfl, Table.identity_get, rfl, rfl, rfl, rfl⟩

/-- A step that takes a reset leaves `State.reset`, but for the parameters and the port. -/
theorem step_of_reset {rest : List HostInput} (hin : s.inbox = .reset :: rest) :
    step s = .next
      { State.reset with given := s.given, inbox := rest, responses := s.responses } :=
  step_reset hin

/-- A well-formed command with letters for its symbols that needs what is not loaded answers
NOT_CONFIGURED. -/
theorem exec_of_unconfigured (hwf : WellFormed i) (letters : ¬BadSymbol i)
    (missing : Unconfigured s i) : exec i s = .next (s.answering .notConfigured 0) :=
  (notConfiguredExactlyForMissingLoads i s hwf).mpr ⟨letters, missing⟩

/-- With nothing loaded, every command that needs a rotor or the reflector answers
NOT_CONFIGURED. -/
theorem exec_of_nothing_loaded (hrot : ∀ k, s.rotValid k = false) (href : s.refValid = false)
    (k : Slot) (x : Letter) :
    exec (.getcfg .turn (some k)) s = .next (s.answering .notConfigured 0)
      ∧ exec (.step k) s = .next (s.answering .notConfigured 0)
      ∧ exec (.proc (letterBits x)) s = .next (s.answering .notConfigured 0)
      ∧ exec (.probe .ref none (letterBits x)) s = .next (s.answering .notConfigured 0)
      ∧ ∀ stage : Stage, stage.namesSlot = true →
          exec (.probe stage (some k) (letterBits x)) s
            = .next (s.answering .notConfigured 0) :=
  have hx := letterBits_not_bad x
  ⟨exec_of_unconfigured rfl id ⟨k, rfl, rfl, hrot k⟩,
    exec_of_unconfigured rfl id ⟨k, hrot k⟩,
    exec_of_unconfigured rfl hx (.inr href),
    exec_of_unconfigured rfl hx (.inl ⟨rfl, href⟩),
    fun stage hstage => exec_of_unconfigured (by simp [WellFormed, Instr.wellFormed, hstage]) hx
      (.inr ⟨k, hstage, rfl, hrot k⟩)⟩

/-- Settles O12: the next state is `State.reset` at the host's port (`step_of_reset`), where nothing
is loaded (`exec_of_nothing_loaded`). -/
theorem resetSetsTheEngine : Obligations.ResetSetsTheEngine := by
  intro s rest hin
  have hrotor : ∀ k, State.reset.rotor.get k = none := PerSlot.get_same none
  have hrot : ∀ k, State.reset.rotValid k = false := fun k => by simp [State.rotValid, hrotor]
  exact ⟨_, step_of_reset hin, rfl, rfl, PerSlot.get_same 0, PerSlot.get_same false,
    Table.identity_get, hrot, rfl, hrotor, rfl, exec_of_nothing_loaded hrot rfl⟩

end Sys2Proof.Machine
end

section
/-! The payload's entries (20_memory.md R31), what LDROT and LDREF load, and what they leave
unchanged (40_permutation_reflector.md R58, R59, R62). -/

namespace Sys2Proof.Machine

variable {s t : State} {i : Instr}

theorem payloadTable_getLsbD (tbl : Payload) (i : Letter) {j : Nat} (hj : j < 5) :
    ((payloadTable tbl).get i).getLsbD j = tbl.getLsbD (5 * i.val + j) := by
  simp [payloadTable_get, tblEntry, hj]

/-- An entry above 25 makes a table invalid (R31, R55). -/
theorem not_validWiring_of_entry {raw : RawTable} {i : Letter} (h : 25 < (raw.get i).toNat) :
    ¬ValidWiring raw := fun hvalid => h.not_ge (hvalid.1 i)

/-- Settles O8: the entries are cut out of the payload bit by bit, and a table with one above 25
fails the first check of both loads (`tableErrorsOfTheLoads`). -/
theorem payloadEntriesAndTheirRange : Obligations.PayloadEntriesAndTheirRange := by
  obtain ⟨hldrot, hldref⟩ := tableErrorsOfTheLoads
  intro tbl i
  refine ⟨fun j hj => payloadTable_getLsbD tbl i hj, fun hbig s k x hx => ?_⟩
  have hinvalid : ¬ValidWiring (payloadTable tbl) := not_validWiring_of_entry hbig
  exact ⟨(hldrot k (.payload tbl) x s hx).mpr hinvalid,
    (hldref (.payload tbl) s (.inl nofun)).1.mpr hinvalid⟩

/-- Settles O26: with a valid wiring and a letter LDROT loads `rotorOf` (`execLdrot_letter_cases`),
which is good (`rotorOf_good`). -/
theorem ldrotLoadsTheSlot : Obligations.LdrotLoadsTheSlot := by
  intro k src x s hvalid
  refine ⟨rotorOf (symbolsOf (rotorSource src)) x, ?_, symbolsOf_sameEntries hvalid.1,
    (rotorOf_good hvalid x).1, rfl⟩
  obtain ⟨hinvalid, -⟩ | ⟨-, he⟩ := execLdrot_letter_cases k src x s
  · exact absurd hvalid hinvalid
  · exact he

/-- Settles O27: a valid reflector passes both of LDREF's checks (`execLdref_cases`), and what they
say of the raw table holds of the loaded one (`selfInverseWithoutFixedPoint_iff`). -/
theorem ldrefLoadsTheReflector : Obligations.LdrefLoadsTheReflector := by
  intro src s hgiven hvalid hself
  have hentries := symbolsOf_sameEntries hvalid.1
  refine ⟨symbolsOf (reflectorSource src), ?_, hentries,
    (selfInverseWithoutFixedPoint_iff hentries).mp hself⟩
  obtain ⟨hno, -⟩ | ⟨-, hno, -⟩ | ⟨-, -, he⟩ := execLdref_cases hgiven
  · exact absurd hvalid hno
  · exact absurd hself hno
  · exact he

/-- A command leaves the host's side as it was, but for one more response. -/
theorem Effect.oneResponse (h : Effect s i t) : OneResponse s t := by
  cases h <;> exact ⟨rfl, rfl, _, rfl⟩

/-- Settles O29: LDROT has failed or written one slot, LDREF has failed or written `REF`. -/
theorem loadFrame : Obligations.LoadFrame := by
  refine ⟨fun k src x s t h => ?ldrot, fun src s t h => ?ldref⟩
  case ldrot =>
    have heff := exec_effect h
    have hone := heff.oneResponse
    cases heff with
    | failed | read => exact ⟨rfl, rfl, fun _ _ => rfl, rfl, rfl, hone⟩
    | ldrot => exact ⟨rfl, rfl, fun j hj => PerSlot.get_set_ne _ _ hj, rfl, rfl, hone⟩
  case ldref =>
    have heff := exec_effect h
    have hone := heff.oneResponse
    cases heff with
    | failed | read | ldref => exact ⟨rfl, rfl, rfl, rfl, hone⟩

end Sys2Proof.Machine
end

section
/-! PLCLR and PLSWP: what they write and what they leave unchanged (41_plugboard.md R63, R64). -/

namespace Sys2Proof.Machine

/-- Settles O30: PLCLR writes the identity and answers OK. -/
theorem plclrSetsTheIdentity : Obligations.PlclrSetsTheIdentity :=
  fun _ => ⟨_, rfl, Table.identity_get, rfl⟩

/-- Settles O31: no check of PLSWP fails (`execPlswp_letters_cases`), and the exchange swaps the two
letters. -/
theorem plswpAddsThePair : Obligations.PlswpAddsThePair := by
  intro a b s hne ha hb
  obtain ⟨hdup, -⟩ | ⟨-, he⟩ := execPlswp_letters_cases a b s
  · simp [ha, hb, hne] at hdup
  · refine ⟨_, he, ?_, ?_, fun x hxa hxb => exchange_get_of_ne hxa hxb, rfl⟩
    · simp [exchange_get, hne, hb]
    · simp [exchange_get, ha]

/-- Settles O32: PLCLR writes `PB` alone; PLSWP has failed or exchanged two images in `PB`
(`exchange_get_of_ne`). -/
theorem plugboardFrame : Obligations.PlugboardFrame := by
  refine ⟨fun s t h => ?plclr, fun x y s t h => ?plswp⟩
  case plclr =>
    obtain rfl := respond_eq_next.mp h
    exact ⟨rfl, rfl, rfl, rfl, rfl, rfl, _, rfl⟩
  case plswp =>
    have heff := exec_effect h
    have hone := heff.oneResponse
    cases heff with
    | failed | read => exact ⟨rfl, rfl, rfl, rfl, hone, fun _ _ _ => rfl⟩
    | @plswp a b =>
      exact ⟨rfl, rfl, rfl, rfl, hone, fun z hza hzb =>
        exchange_get_of_ne (fun e => hza (congrArg letterBits e))
          fun e => hzb (congrArg letterBits e)⟩

end Sys2Proof.Machine
end

section
/-! A step that takes a command word runs the decoded command, and an engine with nothing presented
is idle (20_memory.md R41, 70_reset_and_hazards.md R125); given both open parameters, no step stops
(00_scope.md R8). -/

namespace Sys2Proof.Machine

variable {s t : State} {i : Instr}

/-- Settles O9: `step_command` at the decoding. -/
theorem stepRunsTheDecodedCommand : Obligations.StepRunsTheDecodedCommand := by
  intro s cw tbl rest i hin hd
  rw [step_command hin, hd]

/-- Settles O11: `step_nil` is the idle step. -/
theorem idleEngineStaysAsItIs : Obligations.IdleEngineStaysAsItIs := fun _ => step_nil

/-- With both parameters given, no command needs one that is not. -/
theorem State.FullyGiven.not_needsUngiven (h : s.FullyGiven) (why : Refusal) :
    ¬NeedsUngiven s why i := by
  have hgiven : s.given = ⟨true, true⟩ := h
  cases i <;> simp [NeedsUngiven, hgiven]

/-- With both parameters given, every command goes on. -/
theorem State.FullyGiven.exec_goes_on (h : s.FullyGiven) (i : Instr) : ∃ t, exec i s = .next t := by
  cases he : exec i s with
  | next t => exact ⟨t, rfl⟩
  | fault why => cases why
  | refused why => exact absurd (exec_eq_refused_iff.mp he).1 (h.not_needsUngiven why)

/-- Settles O17: an idle step, a reset and an ILLEGAL word always go on, and a command does with
both parameters given (`FullyGiven.exec_goes_on`); none of them writes `given`. -/
theorem noStepStopsWithTheParametersGiven : Obligations.NoStepStopsWithTheParametersGiven := by
  intro s h
  obtain ⟨-, he⟩ | ⟨rest, -, he⟩ | ⟨_, _, rest, i, -, -, he⟩ | ⟨_, _, rest, _, -, -, he⟩ :=
    step_cases s <;> rw [he]
  · exact ⟨s, rfl, h⟩
  · exact ⟨_, rfl, h⟩
  · have hrest : State.FullyGiven { s with inbox := rest } := h
    obtain ⟨t, ht⟩ := hrest.exec_goes_on i
    exact ⟨t, ht, (exec_effect ht).oneResponse.1.trans h⟩
  · exact ⟨_, rfl, h⟩

end Sys2Proof.Machine
end

section
/-! Which commands can answer which status (60_exceptions.md R98). -/

namespace Sys2Proof.Machine

/-- The commands that R98's table names for a status; a well-formed command never raises
ILLEGAL_CMD, and every command may answer OK. -/
def MayAnswer : Status → Instr → Prop
  | .ok, _ => True
  | .invalidWiring, i => (∃ k src x, i = .ldrot k src x) ∨ ∃ src, i = .ldref src
  | .invalidReflector, i => ∃ src, i = .ldref src
  | .duplicateLetter, i => ∃ a b, i = .plswp a b
  | .invalidSymbol, i =>
    (∃ x, i = .proc x) ∨ (∃ k v, i = .setoff k v) ∨ (∃ v, i = .setall v)
      ∨ (∃ k src x, i = .ldrot k src x) ∨ (∃ a b, i = .plswp a b)
      ∨ ∃ stage k x, i = .probe stage k x
  | .notConfigured, i =>
    (∃ x, i = .proc x) ∨ (∃ k, i = .step k) ∨ (∃ stage k x, i = .probe stage k x)
      ∨ ∃ item k, i = .getcfg item k
  | .illegalCmd, i => ¬WellFormed i

/-- Every response with which the outcome goes on from `s` is one the command may answer. -/
def OnlyAnswers (s : State) (i : Instr) (o : Result) : Prop :=
  ∀ t r, o = .next t → t.responses = s.responses ++ [r] → MayAnswer r.status i

variable {s : State} {i : Instr}

theorem OnlyAnswers.of_respond {v : Field5} {u : State} (kept : u.responses = s.responses) :
    OnlyAnswers s i (respond v u) := by
  intro t r h ht
  obtain rfl := response_of_respond h kept ht
  trivial

theorem OnlyAnswers.of_raise {st : Status} (may : MayAnswer st i) :
    OnlyAnswers s i (raise st s) := by
  intro t r h ht
  obtain rfl := response_of_raise h ht
  exact may

theorem OnlyAnswers.of_refused {why : Refusal} : OnlyAnswers s i (.refused why) := by
  intro t r h
  cases h

theorem OnlyAnswers.of_withSymbol {x : Field5} {rest : Letter → Result}
    (may : MayAnswer .invalidSymbol i) (hrest : ∀ a, OnlyAnswers s i (rest a)) :
    OnlyAnswers s i (withSymbol x s rest) := by
  obtain ⟨-, he⟩ | ⟨a, -, he⟩ := withSymbol_cases (x := x) (s := s) (rest := rest) <;> rw [he]
  · exact .of_raise may
  · exact hrest a

theorem OnlyAnswers.of_observeRotor {k : Slot} {f : Rotor → Letter}
    (may : MayAnswer .notConfigured i) : OnlyAnswers s i (observeRotor k s f) := by
  obtain ⟨-, he⟩ | ⟨r, -, he⟩ := observeRotor_cases k s f <;> rw [he]
  · exact .of_raise may
  · exact .of_respond rfl

theorem OnlyAnswers.of_observeRef {f : Table → Letter} (may : MayAnswer .notConfigured i) :
    OnlyAnswers s i (observeRef s f) := by
  obtain ⟨-, he⟩ | ⟨t, -, he⟩ := observeRef_cases s f <;> rw [he]
  · exact .of_raise may
  · exact .of_respond rfl

theorem execProc_onlyAnswers (x : Field5) : OnlyAnswers s (.proc x) (execProc x s) := by
  refine .of_withSymbol (by simp [MayAnswer]) fun a => ?_
  split
  case h_1 rs ref _ _ =>
    cases stepped rs .r3 s with
    | error why => exact .of_refused
    | ok os => exact .of_respond rfl
  case h_2 => exact .of_raise (by simp [MayAnswer])

theorem execStep_onlyAnswers (k : Slot) : OnlyAnswers s (.step k) (execStep k s) := by
  unfold execStep
  split
  case h_1 => exact .of_raise (by simp [MayAnswer])
  case h_2 rs _ =>
    cases stepped rs k s with
    | error why => exact .of_refused
    | ok os => exact .of_respond rfl

theorem execLdrot_onlyAnswers (k : Slot) (src : Source) (x : Field5) :
    OnlyAnswers s (.ldrot k src x) (execLdrot k src x s) := by
  refine .of_withSymbol (by simp [MayAnswer]) fun a => ?_
  split
  case h_1 => exact .of_raise (by simp [MayAnswer])
  case h_2 => exact .of_respond rfl

theorem execLdref_onlyAnswers (src : Source) :
    OnlyAnswers s (.ldref src) (execLdref src s) := by
  unfold execLdref
  split
  case isTrue => exact .of_refused
  case isFalse =>
    split
    case h_1 => exact .of_raise (by simp [MayAnswer])
    case h_2 =>
      split
      case isTrue => exact .of_respond rfl
      case isFalse => exact .of_raise (by simp [MayAnswer])

theorem execPlswp_onlyAnswers (x y : Field5) :
    OnlyAnswers s (.plswp x y) (execPlswp x y s) := by
  refine .of_withSymbol (by simp [MayAnswer]) fun a =>
    .of_withSymbol (by simp [MayAnswer]) fun b => ?_
  split
  case isTrue => exact .of_raise (by simp [MayAnswer])
  case isFalse => exact .of_respond rfl

theorem execProbe_onlyAnswers (stage : Stage) (k : Option Slot) (x : Field5) :
    OnlyAnswers s (.probe stage k x) (execProbe stage k x s) := by
  have hsymbol : MayAnswer .invalidSymbol (.probe stage k x) := by simp [MayAnswer]
  have hload : MayAnswer .notConfigured (.probe stage k x) := by simp [MayAnswer]
  unfold execProbe
  split
  case h_1 => exact .of_withSymbol hsymbol fun _ => .of_respond rfl
  case h_4 => exact .of_withSymbol hsymbol fun _ => .of_observeRef hload
  case h_2 | h_3 | h_5 | h_6 => exact .of_withSymbol hsymbol fun _ => .of_observeRotor hload
  all_goals exact .of_raise nofun

theorem execGetcfg_onlyAnswers (item : Item) (k : Option Slot) :
    OnlyAnswers s (.getcfg item k) (execGetcfg item k s) := by
  unfold execGetcfg
  split
  case h_1 => exact .of_observeRotor (by simp [MayAnswer])
  case h_2 | h_3 => exact .of_respond rfl
  all_goals exact .of_raise nofun

/-- Every command answers OK or one of the errors that R98 names it for. -/
theorem exec_onlyAnswers (i : Instr) (s : State) : OnlyAnswers s i (exec i s) := by
  cases i with
  | proc x => exact execProc_onlyAnswers x
  | step k => exact execStep_onlyAnswers k
  | setoff k v => exact .of_withSymbol (by simp [MayAnswer]) fun _ => .of_respond rfl
  | getoff k => exact .of_respond rfl
  | setall v => exact .of_withSymbol (by simp [MayAnswer]) fun _ => .of_respond rfl
  | ldrot k src x => exact execLdrot_onlyAnswers k src x
  | ldref src => exact execLdref_onlyAnswers src
  | plclr => exact .of_respond (u := s.setPb Table.identity) rfl
  | plswp x y => exact execPlswp_onlyAnswers x y
  | setds k en => exact .of_respond (u := s.setDs k en) rfl
  | probe stage k x => exact execProbe_onlyAnswers stage k x
  | getcfg item k => exact execGetcfg_onlyAnswers item k

/-- Settles O21: the table of R98 is `MayAnswer`, and every command keeps to it
(`exec_onlyAnswers`). -/
theorem statusCodesAndWhoRaisesThem : Obligations.StatusCodesAndWhoRaisesThem := by
  refine ⟨⟨rfl, rfl, rfl, rfl, rfl, rfl, rfl, fun st => by cases st <;> decide⟩, ?_⟩
  intro i s t r hwf h ht
  have hmay {st : Status} (e : r.status = st) : MayAnswer st i := e ▸ exec_onlyAnswers i s t r h ht
  exact ⟨hmay, hmay, hmay, hmay, hmay, fun e => hmay e hwf⟩

end Sys2Proof.Machine
end

section
/-! The stepping of slot 3 is an odometer of three wheels, which turns once around in 17576 steps
(42_rotor_shifter.md R75): the offsets after `n` steps are digits of a number that grows by `n`. -/

namespace Sys2Proof.Machine

/-- The letter on a wheel that started at `z` and was moved on `m` times. -/
def wheel (z : Letter) (m : Nat) : Letter := z + Fin.ofNat 26 m

@[simp] theorem wheel_zero (z : Letter) : wheel z 0 = z := add_zero z

theorem wheel_succ (z : Letter) (m : Nat) : wheel z (m + 1) = wheel z m + 1 := by
  have hsucc : Fin.ofNat 26 (m + 1) = Fin.ofNat 26 m + 1 := by
    simp [Fin.ext_iff, Fin.val_add]
  rw [wheel, hsucc, ← add_assoc, wheel]

/-- A wheel shows the same letter at counts that are equal mod 26. -/
theorem wheel_eq_iff {z : Letter} {m n : Nat} : wheel z m = wheel z n ↔ m % 26 = n % 26 := by
  simp [wheel, Fin.ext_iff]

/-- A wheel shows `d` once it has been moved on by the distance to it. -/
theorem wheel_eq_of_mod {z d : Letter} {m : Nat} (h : m % 26 = (d - z).val) : wheel z m = d := by
  have hm : Fin.ofNat 26 m = d - z := Fin.ext h
  rw [wheel, hm, add_sub_cancel]

/-- A wheel that started just after its turnover is there again exactly when its next move is a full
round. -/
theorem wheel_eq_turn_iff {turn : Letter} {m : Nat} : wheel (turn + 1) m = turn ↔ 26 ∣ m + 1 := by
  rw [← add_left_inj 1, ← wheel_succ, Nat.dvd_iff_mod_eq_zero]
  simpa using wheel_eq_iff (z := turn + 1) (m := m + 1) (n := 0)

/-- A wheel is moved on by its carry. -/
theorem wheel_add_carry (z : Letter) (m : Nat) (p : Prop) [Decidable p] :
    wheel z (m + if p then 1 else 0) = wheel z m + if p then 1 else 0 := by
  split
  · exact wheel_succ z m
  · exact (add_zero _).symm

/-- The offsets at which the odometer shows `n`: slot 3 holds the lowest digit, counted from just
after its turnover, slot 2 the next, counted likewise, and slot 1 the highest. -/
def ofOdometer (turn : PerSlot Letter) (n : Nat) : Offsets :=
  ⟨wheel 0 (n / 676), wheel (turn.r2 + 1) (n / 26), wheel (turn.r3 + 1) n⟩

/-- A step of slot 3 counts the odometer up by 1. -/
theorem stepSlot_ofOdometer (turn : PerSlot Letter) (n : Nat) :
    stepSlot turn .r3 (ofOdometer turn n) = ofOdometer turn (n + 1) := by
  obtain ⟨fast, -, -⟩ := stepIsTheSimultaneousUpdate turn (ofOdometer turn n)
  have hcarry : 26 ∣ n + 1 ∧ 26 ∣ n / 26 + 1 ↔ 676 ∣ n + 1 := by omega
  rw [fast]
  simp only [ofOdometer, wheel_eq_turn_iff, hcarry, wheel_succ, Nat.succ_div, wheel_add_carry]

/-- `m` steps of slot 3 count the odometer up by `m`. -/
theorem stepsFrom3_ofOdometer (turn : PerSlot Letter) (m n : Nat) :
    stepsFrom3 turn m (ofOdometer turn n) = ofOdometer turn (n + m) := by
  induction m generalizing n with
  | zero => rfl
  | succ m ih => rw [stepsFrom3, stepSlot_ofOdometer, ih, Nat.add_right_comm, Nat.add_assoc]

/-- The odometer shows the same digits at counts that are equal mod 17576. -/
theorem ofOdometer_eq_iff {turn : PerSlot Letter} {m n : Nat} :
    ofOdometer turn m = ofOdometer turn n ↔ m % 17576 = n % 17576 := by
  simp only [ofOdometer, PerSlot.mk.injEq, wheel_eq_iff]
  omega

/-- The number the odometer shows at given offsets. -/
def odometer (turn : PerSlot Letter) (off : Offsets) : Nat :=
  (off.r1 - 0).val * 676 + (off.r2 - (turn.r2 + 1)).val * 26 + (off.r3 - (turn.r3 + 1)).val

/-- A number of three digits has these digits. -/
theorem digits_of_number {a b c : Nat} (hb : b < 26) (hc : c < 26) :
    (a * 676 + b * 26 + c) / 676 = a ∧ (a * 676 + b * 26 + c) / 26 % 26 = b
      ∧ (a * 676 + b * 26 + c) % 26 = c := by
  omega

/-- Every position of the three slots is one of the odometer. -/
theorem ofOdometer_odometer (turn : PerSlot Letter) (off : Offsets) :
    ofOdometer turn (odometer turn off) = off := by
  obtain ⟨h1, h2, h3⟩ := digits_of_number (a := (off.r1 - 0).val)
    (off.r2 - (turn.r2 + 1)).isLt (off.r3 - (turn.r3 + 1)).isLt
  have h1' := (congrArg (· % 26) h1).trans (Nat.mod_eq_of_lt (off.r1 - 0).isLt)
  rw [ofOdometer, odometer, wheel_eq_of_mod h1', wheel_eq_of_mod h2, wheel_eq_of_mod h3]

/-- `m` steps of slot 3 from given offsets. -/
theorem stepsFrom3_eq_ofOdometer (turn : PerSlot Letter) (m : Nat) (off : Offsets) :
    stepsFrom3 turn m off = ofOdometer turn (odometer turn off + m) := by
  rw [← stepsFrom3_ofOdometer, ofOdometer_odometer]

/-- Settles O38: `n` steps are back at the start exactly when the odometer shows the same digits,
which is when `n` is a multiple of 17576 (`ofOdometer_eq_iff`). -/
theorem steppingHasPeriod17576 : Obligations.SteppingHasPeriod17576 := by
  intro turn off
  have hback (n : Nat) : stepsFrom3 turn n off = off ↔ n % 17576 = 0 := by
    nth_rw 2 [← ofOdometer_odometer turn off]
    rw [stepsFrom3_eq_ofOdometer, ofOdometer_eq_iff]
    omega
  refine ⟨(hback _).mpr (Nat.mod_self _), fun n hpos hlt h => ?_⟩
  have hzero := (hback n).mp h
  omega

/-- Settles O39: 26 counts turn the first wheel once around and move the second by one, and 676
counts turn both once around and move the third by one. -/
theorem slowerSlotsAdvanceOncePerRound : Obligations.SlowerSlotsAdvanceOncePerRound := by
  intro turn off
  rw [← ofOdometer_odometer turn off, stepsFrom3_ofOdometer, stepsFrom3_ofOdometer]
  generalize odometer turn off = n
  simp only [ofOdometer, ← wheel_succ, wheel_eq_iff]
  omega

end Sys2Proof.Machine
end

section
/-! The turnover of slot 1 has no effect (42_rotor_shifter.md R73): no slot is slower, so base
stepping never tests it, and of the commands only GETCFG TURN reads it. Replacing it commutes with all
others, but for LDROT of slot 1, which overwrites it. -/

namespace Sys2Proof.Machine

/-- The rotor with another turnover letter. -/
def Rotor.withTurn (x : Letter) (r : Rotor) : Rotor := { r with turn := x }

/-- The rotors with another turnover letter in slot 1. -/
def withSlowTurnOf (x : Letter) (rs : PerSlot Rotor) : PerSlot Rotor :=
  { rs with r1 := rs.r1.withTurn x }

/-- The engine with another turnover letter in slot 1, if that is loaded. -/
def State.withSlowTurn (x : Letter) (s : State) : State :=
  { s with rotor := { s.rotor with r1 := s.rotor.r1.map (Rotor.withTurn x) } }

variable (x : Letter) (s : State)

@[simp] theorem withSlowTurn_ref : (s.withSlowTurn x).ref = s.ref := rfl
@[simp] theorem withSlowTurn_pb : (s.withSlowTurn x).pb = s.pb := rfl
@[simp] theorem withSlowTurn_given : (s.withSlowTurn x).given = s.given := rfl

theorem withSlowTurn_rotors? :
    (s.withSlowTurn x).rotors? = s.rotors?.map (withSlowTurnOf x) := by
  unfold State.rotors? State.withSlowTurn
  cases s.rotor with
  | mk a b c => cases a <;> cases b <;> cases c <;> rfl

/-- Base stepping does not test the turnover of slot 1. -/
theorem stepSlot_withSlowTurnOf (rs : PerSlot Rotor) (k : Slot) (off : Offsets) :
    stepSlot ((withSlowTurnOf x rs).map Rotor.turn) k off = stepSlot (rs.map Rotor.turn) k off := by
  cases k with
  | r1 => simp only [stepSlot_r1]
  | r2 => simp only [stepSlot_r2]; rfl
  | r3 => simp only [stepSlot_r3, stepSlot_r2]; rfl

variable {s} in
theorem stepped_withSlowTurn (hbase : s.BaseStepping) (rs : PerSlot Rotor) (k : Slot) :
    stepped (withSlowTurnOf x rs) k (s.withSlowTurn x) = stepped rs k s := by
  have hds : s.anyDs = false := anyDs_eq_false.mpr hbase
  have hds' : (s.withSlowTurn x).anyDs = false := hds
  simp only [stepped, hds, hds', stepSlot_withSlowTurnOf]
  rfl

theorem respond_withSlowTurn (v : Field5) :
    respond v (s.withSlowTurn x) = onNext (State.withSlowTurn x) (respond v s) := rfl

theorem raise_withSlowTurn (st : Status) :
    raise st (s.withSlowTurn x) = onNext (State.withSlowTurn x) (raise st s) := rfl

/-- A symbol operand is checked without the rotors, so it is enough to compare the rest. -/
theorem withSymbol_withSlowTurn (v : Field5) {rest rest' : Letter → Result}
    (h : ∀ a, rest' a = onNext (State.withSlowTurn x) (rest a)) :
    withSymbol v (s.withSlowTurn x) rest'
      = onNext (State.withSlowTurn x) (withSymbol v s rest) := by
  unfold withSymbol
  cases letter? v with
  | none => rfl
  | some a => exact h a

/-- A rotor observed without its turnover letter looks the same. -/
theorem observeRotor_withSlowTurn (k : Slot) {f : Rotor → Letter}
    (hf : ∀ r, f (r.withTurn x) = f r) :
    observeRotor k (s.withSlowTurn x) f = onNext (State.withSlowTurn x) (observeRotor k s f) := by
  unfold observeRotor
  cases k with
  | r1 =>
    have hget : (s.withSlowTurn x).rotor.get .r1 = (s.rotor.get .r1).map (Rotor.withTurn x) := rfl
    rw [hget]
    cases s.rotor.get .r1 with
    | none => rfl
    | some r => simp only [Option.map_some, hf, respond_withSlowTurn]
  | r2 =>
    have hget : (s.withSlowTurn x).rotor.get .r2 = s.rotor.get .r2 := rfl
    rw [hget]
    cases s.rotor.get .r2 <;> rfl
  | r3 =>
    have hget : (s.withSlowTurn x).rotor.get .r3 = s.rotor.get .r3 := rfl
    rw [hget]
    cases s.rotor.get .r3 <;> rfl

theorem observeRef_withSlowTurn (f : Table → Letter) :
    observeRef (s.withSlowTurn x) f = onNext (State.withSlowTurn x) (observeRef s f) := by
  unfold observeRef
  rw [withSlowTurn_ref]
  cases s.ref <;> rfl

variable {s} in
theorem execProc_withSlowTurn (hbase : s.BaseStepping) (v : Field5) :
    execProc v (s.withSlowTurn x) = onNext (State.withSlowTurn x) (execProc v s) := by
  refine withSymbol_withSlowTurn x s v fun a => ?_
  rw [withSlowTurn_rotors?, withSlowTurn_ref]
  cases s.rotors? with
  | none => rfl
  | some rs =>
    cases s.ref with
    | none => rfl
    | some ref =>
      simp only [Option.map_some, stepped_withSlowTurn x hbase]
      cases stepped rs .r3 s <;> rfl

variable {s} in
theorem execStep_withSlowTurn (hbase : s.BaseStepping) (k : Slot) :
    execStep k (s.withSlowTurn x) = onNext (State.withSlowTurn x) (execStep k s) := by
  unfold execStep
  rw [withSlowTurn_rotors?]
  cases s.rotors? with
  | none => rfl
  | some rs =>
    simp only [Option.map_some, stepped_withSlowTurn x hbase]
    cases stepped rs k s <;> rfl

theorem execLdrot_withSlowTurn {k : Slot} (hk : k ≠ .r1) (src : Source) (v : Field5) :
    execLdrot k src v (s.withSlowTurn x) = onNext (State.withSlowTurn x) (execLdrot k src v s) := by
  refine withSymbol_withSlowTurn x s v fun turn => ?_
  cases wiring? (rotorSource src) with
  | none => rfl
  | some table =>
    cases k with
    | r1 => exact absurd rfl hk
    | r2 | r3 => rfl

theorem execLdref_withSlowTurn (src : Source) :
    execLdref src (s.withSlowTurn x) = onNext (State.withSlowTurn x) (execLdref src s) := by
  unfold execLdref
  rw [withSlowTurn_given]
  split
  case isTrue => rfl
  case isFalse =>
    cases wiring? (reflectorSource src) with
    | none => rfl
    | some table =>
      simp only
      split <;> rfl

theorem execPlswp_withSlowTurn (v w : Field5) :
    execPlswp v w (s.withSlowTurn x) = onNext (State.withSlowTurn x) (execPlswp v w s) := by
  refine withSymbol_withSlowTurn x s v fun a => withSymbol_withSlowTurn x s w fun b => ?_
  rw [withSlowTurn_pb]
  split <;> rfl

theorem execProbe_withSlowTurn (stage : Stage) (k : Option Slot) (v : Field5) :
    execProbe stage k v (s.withSlowTurn x)
      = onNext (State.withSlowTurn x) (execProbe stage k v s) := by
  unfold execProbe
  split
  case h_1 => exact withSymbol_withSlowTurn x s v fun _ => rfl
  case h_4 => exact withSymbol_withSlowTurn x s v fun _ => observeRef_withSlowTurn x s _
  case h_2 | h_3 | h_5 | h_6 =>
    exact withSymbol_withSlowTurn x s v fun _ => observeRotor_withSlowTurn x s _ fun _ => rfl
  all_goals rfl

theorem execGetcfg_withSlowTurn {item : Item} (hitem : item ≠ .turn) (k : Option Slot) :
    execGetcfg item k (s.withSlowTurn x)
      = onNext (State.withSlowTurn x) (execGetcfg item k s) := by
  unfold execGetcfg
  split
  case h_1 => exact absurd rfl hitem
  case h_3 =>
    have hbits : (s.withSlowTurn x).validBits = s.validBits := by
      simp [State.validBits, State.rotValid, State.refValid, State.withSlowTurn, PerSlot.get]
    rw [hbits]
    rfl
  all_goals rfl

/-- Of the commands only GETCFG TURN and LDROT of slot 1 do not commute with replacing the
turnover. -/
theorem exec_withSlowTurn {s : State} (hbase : s.BaseStepping) {i : Instr}
    (hget : ∀ k, i ≠ .getcfg .turn k) (hload : ∀ src v, i ≠ .ldrot .r1 src v) :
    exec i (s.withSlowTurn x) = onNext (State.withSlowTurn x) (exec i s) := by
  cases i with
  | proc v => exact execProc_withSlowTurn x hbase v
  | step k => exact execStep_withSlowTurn x hbase k
  | setoff k v => exact withSymbol_withSlowTurn x s v fun _ => rfl
  | setall v => exact withSymbol_withSlowTurn x s v fun _ => rfl
  | ldrot k src v =>
    exact execLdrot_withSlowTurn x s (fun hk => hload src v (hk ▸ rfl)) src v
  | ldref src => exact execLdref_withSlowTurn x s src
  | plswp v w => exact execPlswp_withSlowTurn x s v w
  | probe stage k v => exact execProbe_withSlowTurn x s stage k v
  | getcfg item k => exact execGetcfg_withSlowTurn x s (fun hi => hget k (hi ▸ rfl)) k
  | getoff | plclr | setds => rfl

/-- LDROT of slot 1 overwrites the turnover, or it fails and leaves it. -/
theorem execLdrot_r1_withSlowTurn (src : Source) (v : Field5) :
    execLdrot .r1 src v (s.withSlowTurn x) = execLdrot .r1 src v s
      ∨ execLdrot .r1 src v (s.withSlowTurn x)
        = onNext (State.withSlowTurn x) (execLdrot .r1 src v s) := by
  unfold execLdrot withSymbol
  cases letter? v with
  | none => exact .inr rfl
  | some a =>
    cases wiring? (rotorSource src) with
    | none => exact .inr rfl
    | some table => exact .inl rfl

/-- Replacing the turnover of slot 1 before a command changes nothing, or the same turnover after
it. -/
theorem exec_withSlowTurn_next {s t : State} (hbase : s.BaseStepping) {i : Instr}
    (hget : ∀ k, i ≠ .getcfg .turn k) (h : exec i s = .next t) :
    exec i (s.withSlowTurn x) = .next t ∨ exec i (s.withSlowTurn x) = .next (t.withSlowTurn x) := by
  by_cases hload : ∃ src v, i = .ldrot .r1 src v
  · obtain ⟨src, v, rfl⟩ := hload
    obtain he | he := execLdrot_r1_withSlowTurn x s src v
    · exact .inl (he.trans h)
    · exact .inr (he.trans (congrArg (onNext _) h))
  · push Not at hload
    exact .inr ((exec_withSlowTurn x hbase hget hload).trans (congrArg (onNext _) h))

/-- Settles O36: the state with the other turnover is `withSlowTurn`, and executing a command there
gives the same next state or that state with the other turnover (`exec_withSlowTurn_next`). -/
theorem slowTurnoverHasNoEffect : Obligations.SlowTurnoverHasNoEffect := by
  intro i s t r x hbase hr hget h
  have hother : { s with rotor := { s.rotor with r1 := some { r with turn := x } } }
      = s.withSlowTurn x := by
    rw [State.withSlowTurn, hr]
    rfl
  rw [hother]
  obtain he | he := exec_withSlowTurn_next x hbase hget h
  · exact ⟨t, he, rfl, rfl, rfl, rfl, rfl, rfl, rfl, rfl, rfl, rfl, rfl⟩
  · refine ⟨_, he, rfl, rfl, rfl, rfl, rfl, rfl, rfl, rfl, rfl, ?_, ?_⟩
    all_goals cases hrotor : t.rotor.r1 <;> simp [State.withSlowTurn, Rotor.withTurn, hrotor]

end Sys2Proof.Machine
end

section
/-! STEP, SETOFF, GETOFF, SETALL and SETDS (42_rotor_shifter.md R78 to R83), and PROC
(43_machine.md R85 to R87). -/

namespace Sys2Proof.Machine

variable {s t : State} {rs : PerSlot Rotor} {ref : Table} {os : Offsets}

/-- With the three rotors loaded, STEP steps its slot and answers its new offset, whether or not a
reflector is loaded (R79). -/
theorem exec_step_of_rotors {k : Slot} (h : s.rotor = ⟨some rs.r1, some rs.r2, some rs.r3⟩)
    (hstep : stepped rs k s = .ok os) :
    exec (.step k) s = .next ((s.setOffsets os).deliver ⟨.ok, letterBits (os.get k)⟩) := by
  simp [exec, execStep, rotors?_eq_some.mpr h, hstep, respond]

theorem stepped_of_baseStepping (h : s.BaseStepping) (rs : PerSlot Rotor) (k : Slot) :
    stepped rs k s = .ok (stepSlot (rs.map Rotor.turn) k s.off) := by
  simp [stepped, anyDs_eq_false.mpr h]

/-- While a `DS_EN` bit is 1 stepping is `DS_STEP_RULE`, where that is given (R78). -/
theorem stepped_of_doubleStep {k : Slot} (h : s.dsEn.get k = true)
    (hgiven : s.given.dsStepRule = true) (rs : PerSlot Rotor) (j : Slot) :
    stepped rs j s = .ok (Config.dsStepRule s.off (rs.map Rotor.turn) s.dsEn j) := by
  have hany : s.anyDs = true := by
    rw [← Bool.not_eq_false, anyDs_eq_false]
    exact not_baseStepping_iff.mpr ⟨k, h⟩
  simp [stepped, hany, hgiven]

/-- Settles O40: STEP answers the base step of its slot (`exec_step_of_rotors`), which is the
simultaneous update (`stepIsTheSimultaneousUpdate`). -/
theorem stepAdvancesTheSlot : Obligations.StepAdvancesTheSlot := by
  intro s a b c hrotor hbase c3 c32 c2
  have hstep (k : Slot) := exec_step_of_rotors (rs := ⟨a, b, c⟩) hrotor
    (stepped_of_baseStepping hbase ⟨a, b, c⟩ k)
  obtain ⟨fast, middle, slow⟩ :=
    stepIsTheSimultaneousUpdate ((PerSlot.mk a b c).map Rotor.turn) s.off
  refine ⟨?_, ?_, ?_⟩
  · rw [hstep, fast]
    rfl
  · rw [hstep, middle]
    rfl
  · rw [hstep, slow]
    rfl

/-- Settles O41: the step is the open rule's (`stepped_of_doubleStep`), in STEP and in PROC. -/
theorem doubleStepUsesTheOpenRule : Obligations.DoubleStepUsesTheOpenRule :=
  ⟨fun _ rs _ j hrotor hds hgiven =>
      exec_step_of_rotors hrotor (stepped_of_doubleStep hds hgiven rs j),
    fun _ rs _ _ x hloaded hds hgiven =>
      exec_proc_of_loaded hloaded (stepped_of_doubleStep hds hgiven rs .r3) x⟩

/-- Settles O42: a letter is written to the one slot. -/
theorem setoffWritesOneOffset : Obligations.SetoffWritesOneOffset :=
  fun k v s => ⟨s.off.set k v, withSymbol_letterBits v s _, PerSlot.get_set_self _ _ _,
    fun _ hj => PerSlot.get_set_ne _ _ hj⟩

/-- Settles O43: GETOFF only answers. -/
theorem getoffReadsTheOffset : Obligations.GetoffReadsTheOffset := fun _ _ => rfl

/-- Settles O44: a letter is written to every slot. -/
theorem setallWritesAllOffsets : Obligations.SetallWritesAllOffsets :=
  fun v s => withSymbol_letterBits v s _

/-- Settles O45: the enable is written to the one slot. -/
theorem setdsWritesOneEnable : Obligations.SetdsWritesOneEnable :=
  fun k en s => ⟨s.dsEn.set k en, rfl, PerSlot.get_set_self _ _ _,
    fun _ hj => PerSlot.get_set_ne _ _ hj⟩

/-- Settles O48: PROC answers the path at the stepped offsets (`exec_proc_of_loaded`), which under
base stepping are those of the simultaneous update. -/
theorem procStepsThenSubstitutes : Obligations.ProcStepsThenSubstitutes := by
  intro s rs ref x hloaded hbase
  obtain ⟨fast, -, -⟩ := stepIsTheSimultaneousUpdate (rs.map Rotor.turn) s.off
  have hproc := exec_proc_of_loaded hloaded (stepped_of_baseStepping hbase rs .r3) x
  rw [fast] at hproc
  exact hproc

/-- Under base stepping a step moves no faster slot. -/
theorem stepped_faster (hbase : s.BaseStepping) :
    (stepped rs .r1 s = .ok os → os.r2 = s.off.r2 ∧ os.r3 = s.off.r3)
      ∧ (stepped rs .r2 s = .ok os → os.r3 = s.off.r3) := by
  obtain ⟨-, h12, h13, h23, -⟩ := stepMovesEachSlotByAtMostOne (rs.map Rotor.turn) s.off .r1
  simp only [stepped_of_baseStepping hbase, Except.ok.injEq]
  exact ⟨by rintro rfl; exact ⟨h12, h13⟩, by rintro rfl; exact h23⟩

/-- Settles O46: each of the five has failed or read and so only answered, or written what its rule
says; a base step is `stepped_faster`. -/
theorem rotorShifterFrame : Obligations.RotorShifterFrame := by
  intro i s t hi h
  have heff := exec_effect h
  have hone := heff.oneResponse
  cases heff with
  | failed | read =>
    exact ⟨rfl, rfl, rfl, hone, fun _ => rfl, fun _ _ _ => ⟨rfl, fun _ _ => rfl⟩,
      fun _ _ _ _ _ => rfl, fun _ _ => rfl, fun _ _ => ⟨rfl, rfl⟩, fun _ _ => rfl⟩
  | step k rotors moved =>
    refine ⟨rfl, rfl, rfl, hone, fun _ => rfl, nofun, nofun, nofun, fun hbase hk => ?_,
      fun hbase hk => ?_⟩
    · cases hk
      exact (stepped_faster hbase).1 moved
    · cases hk
      exact (stepped_faster hbase).2 moved
  | setoff k o =>
    refine ⟨rfl, rfl, rfl, hone, fun _ => rfl, nofun, fun k' v hk j hj => ?_, nofun, nofun, nofun⟩
    cases hk
    exact PerSlot.get_set_ne _ _ hj
  | setall o => exact ⟨rfl, rfl, rfl, hone, fun _ => rfl, nofun, nofun, nofun, nofun, nofun⟩
  | setds k en =>
    refine ⟨rfl, rfl, rfl, hone, fun hne => absurd rfl (hne k en), fun k' en' hk => ?_, nofun,
      nofun, nofun, nofun⟩
    cases hk
    exact ⟨rfl, fun j hj => PerSlot.get_set_ne _ _ hj⟩
  | proc | ldrot | ldref | plclr | plswp => simp at hi

end Sys2Proof.Machine
end

section
/-! PROBE and GETCFG, and what they and PROC leave unchanged (43_machine.md R85, R95, R97). -/

namespace Sys2Proof.Machine

variable {s t : State}

/-- PROBE FWD of a letter in a loaded slot answers its forward image (R95). -/
theorem exec_probe_fwd {k : Slot} {r : Rotor} (h : s.rotor.get k = some r) (x : Letter) :
    exec (.probe .fwd (some k) (letterBits x)) s
      = .next (s.answering .ok (letterBits (r.fwd.get x))) :=
  (withSymbol_letterBits x s _).trans (observeRotor_of_loaded h _)

/-- PROBE BWD of a letter in a loaded slot answers its backward image (R95). -/
theorem exec_probe_bwd {k : Slot} {r : Rotor} (h : s.rotor.get k = some r) (x : Letter) :
    exec (.probe .bwd (some k) (letterBits x)) s
      = .next (s.answering .ok (letterBits (r.bwd.get x))) :=
  (withSymbol_letterBits x s _).trans (observeRotor_of_loaded h _)

/-- Settles O55: one lemma per stage. -/
theorem probeEvaluatesOneStage : Obligations.ProbeEvaluatesOneStage :=
  ⟨exec_probe_pb,
    fun _ _ _ x h =>
      ⟨exec_probe_flow h x, exec_probe_rflow h x, exec_probe_fwd h x, exec_probe_bwd h x⟩,
    fun _ _ x h => exec_probe_ref h x⟩

/-- Settles O56: the slot of a PROBE fits its stage in the six cases that have a meaning, and the
others raise ILLEGAL_CMD. -/
theorem probeOfThePlugboardAndMisfitSlots : Obligations.ProbeOfThePlugboardAndMisfitSlots := by
  refine ⟨exec_probe_pb, fun s stage k x hmisfit => ?_⟩
  rw [exec]
  unfold execProbe
  split
  case h_1 | h_2 | h_3 | h_4 | h_5 | h_6 => exact absurd rfl hmisfit
  all_goals rfl

/-- The 5-bit form of a flag. -/
theorem flagBits_eq (b : Bool) : flagBits b = if b then 1 else 0 := by
  cases b <;> rfl

/-- The valid bits as a sum of powers of 2 (R97). -/
theorem validBits_eq (s : State) : s.validBits =
    BitVec.ofNat 5 ((if s.refValid then 8 else 0) + (if s.rotValid .r3 then 4 else 0)
      + (if s.rotValid .r2 then 2 else 0) + (if s.rotValid .r1 then 1 else 0)) := by
  unfold State.validBits
  generalize s.refValid = d, s.rotValid .r3 = c, s.rotValid .r2 = b, s.rotValid .r1 = a
  revert a b c d
  decide

/-- Settles O57: TURN observes a rotor, loaded or not; DS and VALID only answer. -/
theorem getcfgReadsOneRegister : Obligations.GetcfgReadsOneRegister := by
  refine ⟨fun s k r h => observeRotor_of_loaded h _, fun s k h => ?unloaded,
    fun s k => ⟨?ds, ?valid⟩⟩
  case unloaded =>
    exact exec_of_unconfigured rfl id ⟨k, rfl, rfl, by simp [State.rotValid, h]⟩
  case ds =>
    rw [← flagBits_eq]
    rfl
  case valid =>
    rw [← validBits_eq]
    rfl

/-- Settles O59: PROC has failed or written the offsets; PROBE and GETCFG have only answered
(`Effect.eq_deliver_of_isRead`). -/
theorem engineCommandFrame : Obligations.EngineCommandFrame := by
  refine ⟨fun x s t h => ?proc, fun i s t hi h => ?reads⟩
  case proc =>
    have heff := exec_effect h
    have hone := heff.oneResponse
    cases heff with
    | failed | read | proc => exact ⟨rfl, rfl, rfl, rfl, hone⟩
  case reads =>
    have hread : IsRead i := .inr hi.symm
    obtain ⟨r, rfl⟩ := (exec_effect h).eq_deliver_of_isRead hread
    exact ⟨⟨rfl, rfl, rfl, rfl, rfl, rfl⟩, rfl, rfl, r, rfl⟩

end Sys2Proof.Machine
end
